-- ==== Sys2Proof/Word.lean ====
section
/-! DEFINITION. The words the block moves, at the widths the spec fixes (00_scope.md R10, 10_state.md section 3). -/

namespace Sys2Proof

/-- A command word, 64 bits (30_encoding.md R62). -/
abbrev CmdWord := BitVec 64

/-- A packed Color, 32 bits (20_memory.md R48), and the width of response data and of the millisecond registers. -/
abbrev Word := BitVec 32

/-- The packed Color of one LED (20_memory.md R48). -/
abbrev Color := BitVec 32

/-- A FrameBuffer index as a command carries it (30_encoding.md R66). -/
abbrev Index := BitVec 16

/-- One channel value (00_scope.md R10). -/
abbrev Byte := BitVec 8

/-- The four channels of a Color (00_scope.md R16). -/
inductive Channel where
  | r
  | g
  | b
  | w
  deriving DecidableEq, Repr

end Sys2Proof
end

