-- ==== Sys2Proof/Config.lean ====
section
/-! DEFINITION. What a build of the block fixes (00_scope.md R9), and the environment's free inputs (10_state.md R37). -/

namespace Sys2Proof

/-- `ORDER`: the channel that each of the four wire slots carries (00_scope.md R9, 20_memory.md R49). -/
structure ChannelOrder where
  slot0 : Channel
  slot1 : Channel
  slot2 : Channel
  slot3 : Channel
  deriving DecidableEq, Repr

/-- The implementation parameters (00_scope.md R9). They are plain data in the state so that every statement is about
every build, no command and no step changes them, and `Config.legal` (Machine/Build.lean) is the build check. -/
structure Config where
  /-- `N`, the strip length. -/
  n : Nat
  /-- `UPTIME_W`, the width of `uptime` and `deadline`. -/
  uptimeW : Nat
  /-- `F_CLK`, in Hz. -/
  fClk : Nat
  /-- `TICK_CYC`, the cycles between two ticks of the environment's contract (40_timebase.md R76). -/
  tickCyc : Nat
  /-- `T0H`. -/
  t0h : Nat
  /-- `T0L`. -/
  t0l : Nat
  /-- `T1H`. -/
  t1h : Nat
  /-- `T1L`. -/
  t1l : Nat
  /-- `TRES`. -/
  tres : Nat
  /-- `ORDER`. -/
  order : ChannelOrder
  /-- `TX_MASKS_IRQ`. -/
  txMasksIrq : Bool
  /-- `CNT_W`, the width of `sd_cnt`. -/
  cntW : Nat
  deriving DecidableEq, Repr

/-- The defaults of 00_scope.md R9. DESIGN CHOICE for `n` (safe): the spec gives `N` no default and uses 8 in its
examples (log 1). -/
def Config.default : Config where
  n := 8
  uptimeW := 32
  fClk := 16000000
  tickCyc := 16000
  t0h := 6
  t0l := 14
  t1h := 13
  t1l := 7
  tres := 1280
  order := ⟨.g, .r, .b, .w⟩
  txMasksIrq := true
  cntW := 16

/-- The input ports, sampled once per step (10_state.md R37). -/
structure Input where
  rst : Bool
  tick : Bool
  preempt : Bool
  cmdValid : Bool
  cmdWord : CmdWord
  deriving DecidableEq, Repr, Inhabited

/-- An environment that drives nothing. -/
def Input.quiet : Input where
  rst := false
  tick := false
  preempt := false
  cmdValid := false
  cmdWord := 0

/-- The FREE environment: what it drives in step `k` when the state schedules no input for that step (10_state.md R17,
R37, 40_timebase.md R76, 92_eei_decisions.md D11). It has no body, so nothing can be proved of a value of it (log 3). -/
opaque Config.envInput : Nat → Input

end Sys2Proof
end

