-- ==== Sys2Proof/Machine/Build.lean ====
section
/-! DEFINITION. What a build checks of its parameters (00_scope.md R9, 42_signal_driver.md R94), and where the default
cycle counts come from (42_signal_driver.md R93). -/

namespace Sys2Proof

/-- The channels of the four wire slots, in slot order. -/
def ChannelOrder.toList (o : ChannelOrder) : List Channel := [o.slot0, o.slot1, o.slot2, o.slot3]

/-- The longest phase, which `sd_cnt` must be able to hold less one (42_signal_driver.md R94 item 3). -/
def Config.maxPhase (c : Config) : Nat := max (max (max c.t0h c.t0l) (max c.t1h c.t1l)) c.tres

/-- The legal values of 00_scope.md R9 with 42_signal_driver.md R94 items 1 to 3; `ORDER` is a permutation, which four
slots are when no channel stands in two. -/
def Config.legal (c : Config) : Bool :=
  decide (1 ≤ c.n ∧ c.n ≤ 65535) &&
  decide (1 ≤ c.uptimeW ∧ c.uptimeW ≤ 32) &&
  decide (0 < c.fClk ∧ 1 ≤ c.tickCyc) &&
  decide (1 ≤ c.t0h ∧ 1 ≤ c.t0l ∧ 1 ≤ c.t1h ∧ 1 ≤ c.t1l ∧ 1 ≤ c.tres) &&
  decide (c.t0h < c.t1h) &&
  decide c.order.toList.Nodup &&
  decide (c.maxPhase - 1 < 2 ^ c.cntW)

/-- `round(t · F_CLK)` for a time `t` in nanoseconds (42_signal_driver.md R93), a half rounded up (log 18). -/
def Config.cyclesOf (c : Config) (ns : Nat) : Nat := (2 * ns * c.fClk + 1000000000) / 2000000000

end Sys2Proof
end

