-- ==== Sys2Proof/Syntax.lean ====
section
/-! DEFINITION. The seven commands, one constructor per row of spec/opcode_table.json (30_encoding.md R64). -/

namespace Sys2Proof

/-- A command with its operands as decode gives them (30_encoding.md R65, R66). -/
inductive Instr where
  /-- NOP (43_port_and_status.md R117). -/
  | nop
  /-- FB_SET (41_framebuffer.md R85). -/
  | fbSet (idx : Index) (color : Color)
  /-- FB_GET (41_framebuffer.md R87). -/
  | fbGet (idx : Index)
  /-- TX (42_signal_driver.md R98). -/
  | tx
  /-- DELAY (40_timebase.md R77). `ms` stands in the 32 bits of the DATA field (log 6). -/
  | delay (ms : Word)
  /-- RD_UPTIME (40_timebase.md R84). -/
  | rdUptime
  /-- RD_STATUS (43_port_and_status.md R118). -/
  | rdStatus
  deriving DecidableEq, Repr

end Sys2Proof
end

