-- ==== Sys2Proof/WellFormed.lean ====
section
/-! DEFINITION. The check an instruction meets when decode can give it (30_encoding.md R63, R65). -/

namespace Sys2Proof

/-- The operands fit the command's fields at timer width `uptimeW`: the one condition the field widths do not already
express is DELAY's `DATA < 2^UPTIME_W` (30_encoding.md R63). An index past `N` is well formed (R65: the check is made
when the command runs). -/
def Instr.wf (uptimeW : Nat) : Instr → Bool
  | .nop => true
  | .fbSet _ _ => true
  | .fbGet _ => true
  | .tx => true
  | .delay ms => decide (ms.toNat < 2 ^ uptimeW)
  | .rdUptime => true
  | .rdStatus => true

end Sys2Proof
end

