-- ==== Sys2Proof/Decode.lean ====
section
/-! DEFINITION. Decoding of a command word (30_encoding.md R62 to R68), and the encoder written from the same table. -/

namespace Sys2Proof

/-- What decode reports of a word that is no command (30_encoding.md R65). -/
inductive DecodeFault where
  /-- Opcode 0x7 to 0xF, code 2. -/
  | illegalOpcode
  /-- A must-be-zero field is nonzero, or DELAY with `DATA ≥ 2^UPTIME_W`, code 3. -/
  | reservedBits
  deriving DecidableEq, Repr

/-- `OP`, bits [63:60] (30_encoding.md R62). -/
def opField (w : CmdWord) : BitVec 4 := w.extractLsb' 60 4

/-- `RSV`, bits [59:48] (30_encoding.md R62). -/
def rsvField (w : CmdWord) : BitVec 12 := w.extractLsb' 48 12

/-- `IDX`, bits [47:32] (30_encoding.md R62). -/
def idxField (w : CmdWord) : Index := w.extractLsb' 32 16

/-- `DATA`, bits [31:0] (30_encoding.md R62). -/
def dataField (w : CmdWord) : Word := w.extractLsb' 0 32

/-- A command that uses neither IDX nor DATA: format Z (30_encoding.md R63). -/
def decodeZ (w : CmdWord) (i : Instr) : Except DecodeFault Instr :=
  if idxField w = 0 ∧ dataField w = 0 then .ok i else .error .reservedBits

/-- Decoding, its checks in the order of 30_encoding.md R65. -/
def decode (uptimeW : Nat) (w : CmdWord) : Except DecodeFault Instr :=
  if 7 ≤ (opField w).toNat then .error .illegalOpcode
  else if rsvField w ≠ 0 then .error .reservedBits
  else
    match (opField w).toNat with
    | 0 => decodeZ w .nop
    | 1 => .ok (.fbSet (idxField w) (dataField w))
    | 2 => if dataField w = 0 then .ok (.fbGet (idxField w)) else .error .reservedBits
    | 3 => decodeZ w .tx
    | 4 =>
      if idxField w ≠ 0 then .error .reservedBits
      else if 2 ^ uptimeW ≤ (dataField w).toNat then .error .reservedBits
      else .ok (.delay (dataField w))
    | 5 => decodeZ w .rdUptime
    | 6 => decodeZ w .rdStatus
    | _ => .error .illegalOpcode

/-- A word from its fields, RSV zero (30_encoding.md R62). -/
def packWord (op : BitVec 4) (idx : Index) (data : Word) : CmdWord :=
  op ++ 0#12 ++ idx ++ data

/-- The word of a command (30_encoding.md R64, R69). -/
def encode : Instr → CmdWord
  | .nop => packWord 0 0 0
  | .fbSet idx color => packWord 1 idx color
  | .fbGet idx => packWord 2 idx 0
  | .tx => packWord 3 0 0
  | .delay ms => packWord 4 0 ms
  | .rdUptime => packWord 5 0 0
  | .rdStatus => packWord 6 0 0

/-- One row of the opcode map (30_encoding.md R64). -/
structure OpcodeRow where
  op : Nat
  pattern : CmdWord
  mask : CmdWord
  deriving DecidableEq, Repr

/-- The opcode map, match and mask as 30_encoding.md R64 prints them. -/
def opcodeTable : List OpcodeRow :=
  [ ⟨0, 0x0000000000000000, 0xFFFFFFFFFFFFFFFF⟩,
    ⟨1, 0x1000000000000000, 0xFFFF000000000000⟩,
    ⟨2, 0x2000000000000000, 0xFFFF0000FFFFFFFF⟩,
    ⟨3, 0x3000000000000000, 0xFFFFFFFFFFFFFFFF⟩,
    ⟨4, 0x4000000000000000, 0xFFFFFFFF00000000⟩,
    ⟨5, 0x5000000000000000, 0xFFFFFFFFFFFFFFFF⟩,
    ⟨6, 0x6000000000000000, 0xFFFFFFFFFFFFFFFF⟩ ]

/-- The opcode of a command (30_encoding.md R64). -/
def Instr.opcode : Instr → Nat
  | .nop => 0
  | .fbSet _ _ => 1
  | .fbGet _ => 2
  | .tx => 3
  | .delay _ => 4
  | .rdUptime => 5
  | .rdStatus => 6

/-- The word has the form of a row of the opcode map: `(w AND mask) = match`, with the one condition a mask cannot
express, DELAY's `DATA < 2^UPTIME_W` (30_encoding.md R64). -/
def hasRowForm (uptimeW : Nat) (w : CmdWord) : Bool :=
  opcodeTable.any fun row =>
    decide (w &&& row.mask = row.pattern) && (decide (row.op ≠ 4) || decide ((dataField w).toNat < 2 ^ uptimeW))

/-- The command word whose low `nbits` bits are `w`'s and whose other bits are 0. A command word is presented whole in
one cycle and has no byte order (20_memory.md R51), so bit k of the table is bit k of `cmd_word`. -/
def tableWord (nbits w : Nat) : CmdWord := BitVec.ofNat 64 (w % 2 ^ nbits)

/-- The command the decoder reads from a word numbered as spec/opcode_table.json numbers it, at the default
`UPTIME_W` (log 20). A row longer than a command word is none. -/
def decodeTableWord (nbits w : Nat) : Option Instr :=
  if nbits ≤ 64 then (decode Config.default.uptimeW (tableWord nbits w)).toOption else none

end Sys2Proof
end

