-- ==== Sys2Proof/Machine/State.lean ====
section
/-! DEFINITION. Every register of the block (10_state.md R20 to R34), the build parameters it was made with, and the
environment's inputs of the coming cycles. Reset values: 10_state.md R44. -/

namespace Sys2Proof.Machine

/-- `ctl`, the command controller state (10_state.md R24). -/
inductive Ctl where
  /-- Accepts a command this cycle. -/
  | ready
  /-- A TX command is running. -/
  | busyTx
  /-- A DELAY command waits for `uptime ≥ deadline`. -/
  | busyDelay
  /-- A fault occurred, and no command is accepted until reset. -/
  | halted
  deriving DecidableEq, Repr

/-- `sd_state`, the SignalDriver phase (10_state.md R25). -/
inductive Phase where
  /-- SD_IDLE. -/
  | idle
  /-- SD_HIGH, the high part of one bit. -/
  | high
  /-- SD_LOW, the low part of one bit. -/
  | low
  /-- SD_GAP, the reset gap after the last bit. -/
  | gap
  deriving DecidableEq, Repr

/-- The SignalDriver's registers: phase, cursor, byte, counter and the data line (10_state.md R25 to R32). -/
structure SignalRegs where
  phase : Phase
  led : BitVec 16
  slot : BitVec 2
  bit : BitVec 3
  byte : BitVec 8
  cnt : Nat
  dout : Bool
  deriving DecidableEq, Repr

/-- The SignalDriver at reset and after a frame (10_state.md R44, 42_signal_driver.md R104). -/
def SignalRegs.reset : SignalRegs where
  phase := .idle
  led := 0
  slot := 0
  bit := 0
  byte := 0
  cnt := 0
  dout := false

/-- The response register of the command port (10_state.md R33). -/
structure Response where
  valid : Bool
  status : BitVec 4
  data : BitVec 32
  deriving DecidableEq, Repr

/-- The FrameBuffer (10_state.md R20, 20_memory.md R45): the (index, Color) pairs whose Color is not 0, indices
strictly rising. The addressable unit is one whole Color (log 5). -/
abbrev FrameBuffer := List (Nat × Color)

/-- The block: its parameters, its registers, and what the environment drives next. -/
structure State where
  /-- The build parameters (00_scope.md R9). -/
  cfg : Config
  /-- `fb` (10_state.md R20). -/
  fb : FrameBuffer
  /-- `uptime` (10_state.md R21), its UPTIME_W bits zero-extended. -/
  uptime : Word
  /-- `deadline` (10_state.md R22), its UPTIME_W bits zero-extended. -/
  deadline : Word
  /-- `tick_pending` (10_state.md R23). -/
  tickPending : Bool
  /-- `ctl` (10_state.md R24). -/
  ctl : Ctl
  /-- `sd_*` and `dout` (10_state.md R25 to R32). -/
  sd : SignalRegs
  /-- `rsp_*` (10_state.md R33). -/
  rsp : Response
  /-- `fault_code` (10_state.md R34). -/
  faultCode : BitVec 4
  /-- `fault_cmd` (10_state.md R34). -/
  faultCmd : CmdWord
  /-- The MODEL's own: the inputs scheduled for the coming cycles, the present one first (log 3). -/
  inputs : List Input
  /-- The MODEL's own: the number of the present step, the argument of the free inputs (log 3). -/
  cycle : Nat
  deriving DecidableEq, Repr

/-- Why the machine stops with a fault. The block's own faults (60_exceptions.md R122) are not these: they are entered
as a next state, HALTED. -/
inductive Fault where
  /-- Raised by FrameRead with `led ≥ N` (41_framebuffer.md R89 requires `led < N`). Safe: INV-LED of 10_state.md R40
  keeps every reachable state away from it (log 8). -/
  | frameReadOutOfRange
  deriving DecidableEq, Repr

/-- Why the model refuses. -/
inductive Refusal where
  /-- Raised by an arm of exec that has no meaning yet; no arm of this model raises it. Safe. -/
  | notModelled (mnemonic : String)
  /-- Raised by step on parameters that break 00_scope.md R9 or 42_signal_driver.md R94 items 1 to 3, which the spec
  has a model refuse (93_implementation_defined.md R-5). Safe (log 2). -/
  | illegalConfig
  deriving DecidableEq, Repr

/-- RESET_STATE (10_state.md R44) of a block built with `cfg`, in an environment that has `inputs` scheduled from step
`cycle` on. -/
def State.resetWith (cfg : Config) (inputs : List Input) (cycle : Nat) : State where
  cfg := cfg
  fb := []
  uptime := 0
  deadline := 0
  tickPending := false
  ctl := .ready
  sd := SignalRegs.reset
  rsp := ⟨false, 0, 0⟩
  faultCode := 0
  faultCmd := 0
  inputs := inputs
  cycle := cycle

/-- The machine right after reset: RESET_STATE at the default parameters, no input scheduled (log 1, 3, 19). -/
def State.reset : State := State.resetWith Config.default [] 0

end Sys2Proof.Machine
end

