-- ==== Sys2Proof/Machine/Operands.lean ====
section
/-! DEFINITION. Colors and their channels, wire order, operand assembly, the block's arithmetic and phase lengths
(20_memory.md R48 to R52, 30_encoding.md R66, 42_signal_driver.md R92, 43_port_and_status.md R152). -/

namespace Sys2Proof

/-- `chan(c, X)`: the slice of the packed Color that is channel X (20_memory.md R48, R52). -/
def chan (c : Color) : Channel → Byte
  | .r => c.extractLsb' 24 8
  | .g => c.extractLsb' 16 8
  | .b => c.extractLsb' 8 8
  | .w => c.extractLsb' 0 8

/-- `pack(r, g, b, w)` (20_memory.md R48). -/
def packColor (r g b w : Byte) : Color := r ++ g ++ b ++ w

/-- `ORDER[s]` (20_memory.md R49). -/
def ChannelOrder.channelAt (o : ChannelOrder) (slot : BitVec 2) : Channel :=
  match slot.toNat with
  | 0 => o.slot0
  | 1 => o.slot1
  | 2 => o.slot2
  | _ => o.slot3

/-- `wire_byte(c, s)` (20_memory.md R52). -/
def wireByte (o : ChannelOrder) (c : Color) (slot : BitVec 2) : Byte := chan c (o.channelAt slot)

/-- `TH(b)`, the cycles of a bit's high phase (42_signal_driver.md R92). -/
def Config.th (c : Config) (b : Bool) : Nat := if b then c.t1h else c.t0h

/-- `TL(b)`, the cycles of a bit's low phase (42_signal_driver.md R92). -/
def Config.tl (c : Config) (b : Bool) : Nat := if b then c.t1l else c.t0l

/-- `zext_32(IDX) < N` (30_encoding.md R66). -/
def Config.inRange (c : Config) (idx : Index) : Bool := decide (idx.toNat < c.n)

/-- `a +_W b`, the sum modulo `2^W` (00_scope.md R13), in the 32 bits that hold a W-bit value (log 6). -/
def addW (uptimeW : Nat) (a b : Word) : Word := BitVec.ofNat 32 ((a.toNat + b.toNat) % 2 ^ uptimeW)

/-- A channel of a Color replaced by a value, the host's part of FB_SET_CH (30_encoding.md R70). -/
def setChan (c : Color) (x : Channel) (v : Byte) : Color :=
  packColor (if x = .r then v else chan c .r) (if x = .g then v else chan c .g)
    (if x = .b then v else chan c .b) (if x = .w then v else chan c .w)

end Sys2Proof

namespace Sys2Proof.Machine

/-- The value of the `ctl` register (10_state.md R24). -/
def Ctl.code : Ctl → BitVec 2
  | .ready => 0
  | .busyTx => 1
  | .busyDelay => 2
  | .halted => 3

/-- The value of the `sd_state` register (10_state.md R25). -/
def Phase.code : Phase → BitVec 2
  | .idle => 0
  | .high => 1
  | .low => 2
  | .gap => 3

end Sys2Proof.Machine
end

