-- ==== Sys2Proof/Machine/Ops.lean ====
section
/-! DEFINITION. The named operations over the FrameBuffer and the registers: reading and writing a Color, FrameRead, the
response, entering HALTED (the block's exception entry) and leaving it by reset, the masked window, the environment. -/

namespace Sys2Proof.Machine

/-- `MemRead(i, 4)`: the Color at index `i` (00_scope.md R13). An index the list does not hold reads as 0, the
FrameBuffer's reset contents (10_state.md R20, R44). -/
def FrameBuffer.read : FrameBuffer → Nat → Color
  | [], _ => 0
  | (j, d) :: rest, i => if i = j then d else FrameBuffer.read rest i

/-- `fb` with a Color put in front of the cells after it, unless it is the Color an unlisted index reads as. -/
def FrameBuffer.put (i : Nat) (c : Color) (rest : FrameBuffer) : FrameBuffer :=
  if c = 0 then rest else (i, c) :: rest

/-- `MemWrite(i, 4, c)`: the Color at index `i` replaced, the others unchanged (00_scope.md R13, 41_framebuffer.md R85),
the canonical form kept. -/
def FrameBuffer.write : FrameBuffer → Nat → Color → FrameBuffer
  | [], i, c => FrameBuffer.put i c []
  | (j, d) :: rest, i, c =>
    if i < j then FrameBuffer.put i c ((j, d) :: rest)
    else if i = j then FrameBuffer.put i c rest
    else (j, d) :: FrameBuffer.write rest i c

/-- Canonical from index `lo` on: indices strictly rise, lie below `n`, and no cell holds the Color an unlisted index
reads as. -/
def FrameBuffer.wfFrom (n : Nat) : Nat → FrameBuffer → Bool
  | _, [] => true
  | lo, (j, d) :: rest => decide (lo ≤ j) && decide (j < n) && decide (d ≠ 0) && FrameBuffer.wfFrom n (j + 1) rest

/-- The canonical form of a FrameBuffer of `n` Colors (10_state.md R20, 41_framebuffer.md R91). -/
def FrameBuffer.wf (fb : FrameBuffer) (n : Nat) : Bool := FrameBuffer.wfFrom n 0 fb

/-- `masked(S)`: ticks and preemption are held off (10_state.md R42). -/
def State.masked (s : State) : Bool := s.cfg.txMasksIrq && decide (s.sd.phase ≠ .idle)

/-- The default of ControlStep: no response in the next cycle, the other response registers kept
(43_port_and_status.md R114, R116). -/
def State.noResponse (s : State) : State := { s with rsp := { s.rsp with valid := false } }

/-- `respond(status, data)` (43_port_and_status.md R116). -/
def State.respond (s : State) (status : BitVec 4) (data : Word) : State :=
  { s with rsp := ⟨true, status, data⟩ }

/-- The status of a command that completes normally (60_exceptions.md R122). -/
def statusOk : BitVec 4 := 0

/-- The block's fault causes (60_exceptions.md R122). -/
inductive Cause where
  | indexOutOfRange
  | illegalOpcode
  | reservedBits
  deriving DecidableEq, Repr

/-- The code of a fault cause (60_exceptions.md R122). -/
def Cause.code : Cause → BitVec 4
  | .indexOutOfRange => 1
  | .illegalOpcode => 2
  | .reservedBits => 3

/-- The fault cause of a word decode rejects (30_encoding.md R65). -/
def causeOf : DecodeFault → Cause
  | .illegalOpcode => .illegalOpcode
  | .reservedBits => .reservedBits

/-- Fault entry, `raise F(w)`: the code and the word recorded, HALTED entered, the code answered, nothing else written
(60_exceptions.md R124). -/
def State.raise (s : State) (f : Cause) (w : CmdWord) : State :=
  { s.respond f.code 0 with ctl := .halted, faultCode := f.code, faultCmd := w }

/-- The only way out of HALTED, and out of everything else: RESET_STATE of the same build (70_reset_and_hazards.md R138,
R139, 60_exceptions.md R126). What the environment drives next is no register of the block. -/
def State.toReset (s : State) : State := State.resetWith s.cfg s.inputs s.cycle

/-- `FrameRead(S, led, slot)` (41_framebuffer.md R89). -/
def State.frameRead (s : State) (led : Nat) (slot : BitVec 2) : Except Fault Byte :=
  if led < s.cfg.n then .ok (wireByte s.cfg.order (s.fb.read led) slot) else .error .frameReadOutOfRange

/-- `cur_bit(S)`, the bit being sent (10_state.md R30). -/
def SignalRegs.curBit (r : SignalRegs) : Bool := r.byte.getLsbD r.bit.toNat

/-- The position of the bit being sent in the frame's bitstream (10_state.md R30). -/
def SignalRegs.position (r : SignalRegs) : Nat := 32 * r.led.toNat + 8 * r.slot.toNat + (7 - r.bit.toNat)

/-- `last(S)` (42_signal_driver.md R102). -/
def State.lastBit (s : State) : Bool :=
  decide (s.sd.led.toNat + 1 = s.cfg.n ∧ s.sd.slot.toNat = 3 ∧ s.sd.bit.toNat = 0)

/-- What the environment drives `k` steps from now: the scheduled input if there is one, else the free one (log 3). -/
def State.inputAt (s : State) (k : Nat) : Input := (s.inputs[k]?).getD (Config.envInput (s.cycle + k))

/-- The inputs sampled in this step (10_state.md R37). -/
def State.input (s : State) : Input := s.inputAt 0

/-- The environment one step on. -/
def State.advanceEnv (s : State) : State := { s with inputs := s.inputs.tail, cycle := s.cycle + 1 }

end Sys2Proof.Machine
end

