-- ==== Sys2Proof/Machine/FrameStore.lean ====
section
/-! DEFINITION. The FrameBuffer's commands (41_framebuffer.md R85 to R88). -/

namespace Sys2Proof.Machine

/-- FB_SET (41_framebuffer.md R85, R86). The word recorded by a fault is the command's, which is its encoding (log 10). -/
def execFbSet (idx : Index) (color : Color) (s : State) : Host.Outcome State Fault Refusal :=
  if s.cfg.inRange idx then .next { s.respond statusOk 0 with fb := s.fb.write idx.toNat color }
  else .next (s.raise .indexOutOfRange (encode (.fbSet idx color)))

/-- FB_GET (41_framebuffer.md R87). -/
def execFbGet (idx : Index) (s : State) : Host.Outcome State Fault Refusal :=
  if s.cfg.inRange idx then .next (s.respond statusOk (s.fb.read idx.toNat))
  else .next (s.raise .indexOutOfRange (encode (.fbGet idx)))

end Sys2Proof.Machine
end

