-- ==== Sys2Proof/Machine/Flags.lean ====
section
/-! DEFINITION. The STATUS word, the block's only flags (10_state.md R35, R36), and the output ports (10_state.md R38). -/

namespace Sys2Proof.Machine

/-- One bit of a status or port word. -/
def flagBit (b : Bool) : BitVec 1 := BitVec.ofBool b

/-- STATUS, bit 31 first (43_port_and_status.md R118, 10_state.md R35). -/
def State.statusWord (s : State) : Word :=
  BitVec.ofNat 16 s.cfg.n ++ BitVec.ofNat 8 s.cfg.uptimeW ++ s.faultCode ++
    flagBit s.cfg.txMasksIrq ++ flagBit s.tickPending ++
    flagBit (decide (s.ctl = .busyDelay)) ++ flagBit (decide (s.sd.phase ≠ .idle))

/-- The output ports (10_state.md R38). -/
structure Output where
  dout : Bool
  cmdReady : Bool
  rspValid : Bool
  rspStatus : BitVec 4
  rspData : Word
  deriving DecidableEq, Repr

/-- The outputs, a function of the pre-state only (10_state.md R38). -/
def State.output (s : State) : Output where
  dout := s.sd.dout
  cmdReady := decide (s.ctl = .ready)
  rspValid := s.rsp.valid
  rspStatus := s.rsp.status
  rspData := s.rsp.data

end Sys2Proof.Machine
end

