-- ==== Sys2Proof/Machine/Port.lean ====
section
/-! DEFINITION. The two commands that belong to no unit (43_port_and_status.md R117, R118). A command's meaning is the
effect of its pseudocode on the pre-state; ControlStep (Machine/Control.lean) runs it only in READY (R114). -/

namespace Sys2Proof.Machine

/-- NOP (43_port_and_status.md R117). -/
def execNop (s : State) : Host.Outcome State Fault Refusal := .next (s.respond statusOk 0)

/-- RD_STATUS (43_port_and_status.md R118). -/
def execRdStatus (s : State) : Host.Outcome State Fault Refusal := .next (s.respond statusOk s.statusWord)

end Sys2Proof.Machine
end

