-- ==== Sys2Proof/Machine/SignalDriver.lean ====
section
/-! DEFINITION. SignalDriver: TX and the bit FSM, one step at a time (42_signal_driver.md R98 to R105). -/

namespace Sys2Proof.Machine

/-- A bit's high phase begun: the cursor on bit `bit` of `byte`, the line up, the counter loaded (42_signal_driver.md
R98, R102). -/
def beginBit (c : Config) (led : BitVec 16) (slot : BitVec 2) (bit : BitVec 3) (byte : Byte) : SignalRegs where
  phase := .high
  led := led
  slot := slot
  bit := bit
  byte := byte
  cnt := c.th (byte.getLsbD bit.toNat) - 1
  dout := true

/-- TX, its acceptance (42_signal_driver.md R98). -/
def execTx (s : State) : Host.Outcome State Fault Refusal :=
  match s.frameRead 0 0 with
  | .error f => .fault f
  | .ok byte => .next { s.noResponse with sd := beginBit s.cfg 0 0 7 byte, ctl := .busyTx }

/-- Advance (42_signal_driver.md R103), with the start of the next bit's high phase (R102). -/
def advanceBit (s : State) : Except Fault SignalRegs :=
  if 0 < s.sd.bit.toNat then .ok (beginBit s.cfg s.sd.led s.sd.slot (s.sd.bit - 1) s.sd.byte)
  else if s.sd.slot.toNat < 3 then
    match s.frameRead s.sd.led.toNat (s.sd.slot + 1) with
    | .error f => .error f
    | .ok byte => .ok (beginBit s.cfg s.sd.led (s.sd.slot + 1) 7 byte)
  else
    match s.frameRead (s.sd.led.toNat + 1) 0 with
    | .error f => .error f
    | .ok byte => .ok (beginBit s.cfg (s.sd.led + 1) 0 7 byte)

/-- The SD_HIGH step (42_signal_driver.md R101). -/
def highStep (s : State) : SignalRegs :=
  if 0 < s.sd.cnt then { s.sd with cnt := s.sd.cnt - 1 }
  else { s.sd with dout := false, phase := .low, cnt := s.cfg.tl s.sd.curBit - 1 }

/-- The SD_LOW step (42_signal_driver.md R102). -/
def lowStep (s : State) : Except Fault SignalRegs :=
  if 0 < s.sd.cnt then .ok { s.sd with cnt := s.sd.cnt - 1 }
  else if s.lastBit then .ok { s.sd with phase := .gap, cnt := s.cfg.tres - 1 }
  else advanceBit s

/-- What SdStep gives: the unit's registers, and whether the frame is done (42_signal_driver.md R99). -/
structure SdOut where
  regs : SignalRegs
  done : Bool
  deriving DecidableEq, Repr

/-- The SD_GAP step (42_signal_driver.md R104). -/
def gapStep (s : State) : SdOut :=
  if 0 < s.sd.cnt then ⟨{ s.sd with cnt := s.sd.cnt - 1 }, false⟩ else ⟨SignalRegs.reset, true⟩

/-- A stall step: the environment preempts outside the masked window (42_signal_driver.md R100). -/
def State.stalled (s : State) (preempt : Bool) : Bool := preempt && !s.masked

/-- SdStep (42_signal_driver.md R99). -/
def sdStep (s : State) (preempt : Bool) : Except Fault SdOut :=
  if s.stalled preempt then .ok ⟨s.sd, false⟩
  else
    match s.sd.phase with
    | .idle => .ok ⟨s.sd, false⟩
    | .high => .ok ⟨highStep s, false⟩
    | .low =>
      match lowStep s with
      | .error f => .error f
      | .ok r => .ok ⟨r, false⟩
    | .gap => .ok (gapStep s)

/-- TX, its completion: what ControlStep does in BUSY_TX (42_signal_driver.md R105). -/
def txStep (s : State) (done : Bool) : State :=
  if done then { s.respond statusOk 0 with ctl := .ready } else s.noResponse

end Sys2Proof.Machine
end

