-- ==== Sys2Proof/Machine/TimeBase.lean ====
section
/-! DEFINITION. TimeBase: the tick, the wrap policy, DELAY and RD_UPTIME (40_timebase.md). -/

namespace Sys2Proof.Machine

/-- TickApply: the incremented counter, and whether it wrapped (40_timebase.md R74). -/
def tickApply (uptimeW : Nat) (u : Word) : Word × Bool :=
  if u.toNat = 2 ^ uptimeW - 1 then (0, true) else (u + 1, false)

/-- What TimeBaseStep gives (40_timebase.md R72). -/
structure TimeBaseOut where
  uptime : Word
  tickPending : Bool
  wrapped : Bool
  deriving DecidableEq, Repr

/-- TimeBaseStep (40_timebase.md R72). -/
def timeBaseStep (s : State) (tick masked : Bool) : TimeBaseOut :=
  if masked then ⟨s.uptime, s.tickPending || tick, false⟩
  else if s.tickPending then
    ⟨(tickApply s.cfg.uptimeW s.uptime).1, tick, (tickApply s.cfg.uptimeW s.uptime).2⟩
  else if tick then
    ⟨(tickApply s.cfg.uptimeW s.uptime).1, false, (tickApply s.cfg.uptimeW s.uptime).2⟩
  else ⟨s.uptime, false, false⟩

/-- DELAY, its acceptance (40_timebase.md R77). -/
def execDelay (ms : Word) (s : State) : Host.Outcome State Fault Refusal :=
  .next { s.noResponse with deadline := addW s.cfg.uptimeW s.uptime ms, ctl := .busyDelay }

/-- DELAY, its completion: what ControlStep does in BUSY_DELAY (40_timebase.md R78). -/
def delayStep (s : State) : State :=
  if s.deadline.toNat ≤ s.uptime.toNat then { s.respond statusOk 0 with ctl := .ready } else s.noResponse

/-- RD_UPTIME (40_timebase.md R84). -/
def execRdUptime (s : State) : Host.Outcome State Fault Refusal := .next (s.respond statusOk s.uptime)

end Sys2Proof.Machine
end

