-- ==== Sys2Proof/Machine/Dispatch.lean ====
section
/-! DEFINITION. What accepting a command does, one arm per row of spec/opcode_table.json (43_port_and_status.md R114). -/

namespace Sys2Proof.Machine

/-- The effect of a command's pseudocode on the pre-state `s`. -/
def exec (i : Instr) (s : State) : Host.Outcome State Fault Refusal :=
  match i with
  | .nop => Sys2Proof.Machine.execNop s
  | .fbSet idx color => Sys2Proof.Machine.execFbSet idx color s
  | .fbGet idx => Sys2Proof.Machine.execFbGet idx s
  | .tx => Sys2Proof.Machine.execTx s
  | .delay ms => Sys2Proof.Machine.execDelay ms s
  | .rdUptime => Sys2Proof.Machine.execRdUptime s
  | .rdStatus => Sys2Proof.Machine.execRdStatus s

end Sys2Proof.Machine
end

