-- ==== Sys2Proof/Machine/Control.lean ====
section
/-! DEFINITION. The command controller and the order of one step (43_port_and_status.md R114, 10_state.md R43). -/

namespace Sys2Proof.Machine

/-- Acceptance: the offered word is decoded, and its command's rule runs or its fault is entered
(43_port_and_status.md R114). -/
def accept (s : State) (w : CmdWord) : Host.Outcome State Fault Refusal :=
  match decode s.cfg.uptimeW w with
  | .ok i => exec i s
  | .error e => .next (s.raise (causeOf e) w)

/-- ControlStep (43_port_and_status.md R114). A word offered while not READY is not stored (R115). -/
def controlStep (s : State) (cmdValid : Bool) (cmdWord : CmdWord) (done : Bool) : Host.Outcome State Fault Refusal :=
  match s.ctl with
  | .ready => if cmdValid then accept s cmdWord else .next s.noResponse
  | .busyTx => .next (txStep s done)
  | .busyDelay => .next (delayStep s)
  | .halted => .next s.noResponse

/-- `merge(S, tb, sd, ct)` with the wrap's `deadline <- 0` after every other writer, in HALTED as in every other state
(10_state.md R43, 40_timebase.md R74, 43_port_and_status.md R152, log 9). The SignalDriver writes `sd_*` and `dout` exactly
when it is not idle in the pre-state; then the environment moves one step on. -/
def merge (s : State) (tb : TimeBaseOut) (sd : SignalRegs) (c : State) : State :=
  State.advanceEnv
    { c with
      uptime := tb.uptime
      tickPending := tb.tickPending
      deadline := if tb.wrapped then 0 else c.deadline
      sd := if s.sd.phase = .idle then c.sd else sd }

/-- One step of the block without reset (10_state.md R43). -/
def unitsStep (s : State) (inp : Input) : Host.Outcome State Fault Refusal :=
  match sdStep s inp.preempt with
  | .error f => .fault f
  | .ok sd =>
    match controlStep s inp.cmdValid inp.cmdWord sd.done with
    | .next c => .next (merge s (timeBaseStep s inp.tick s.masked) sd.regs c)
    | .fault f => .fault f
    | .refused r => .refused r

/-- One step of the block on the inputs of this cycle: reset overrides everything (10_state.md R43,
60_exceptions.md R128). -/
def cycleStep (s : State) (inp : Input) : Host.Outcome State Fault Refusal :=
  if inp.rst then .next s.toReset.advanceEnv else unitsStep s inp

/-- `s` in an environment that offers `w` this cycle, to a block that can accept it: READY, with the SignalDriver idle
(43_port_and_status.md R114). Where the environment has scheduled this cycle's tick and preemption they stay (log 11). -/
def State.offer (s : State) (w : CmdWord) : State :=
  { s with
    ctl := .ready
    sd := if s.sd.phase = .idle then s.sd else SignalRegs.reset
    inputs := { s.inputs.head?.getD Input.quiet with rst := false, cmdValid := true, cmdWord := w } :: s.inputs.tail }

end Sys2Proof.Machine
end

