-- ==== Sys2Proof/Machine/Step.lean ====
section
/-! DEFINITION. One step of the machine: one clock cycle (00_scope.md R12, 10_state.md R17). -/

namespace Sys2Proof.Machine

/-- One clock cycle. Parameters that no build may have are refused (93_implementation_defined.md R-5). -/
def step (s : State) : Host.Outcome State Fault Refusal :=
  if s.cfg.legal then cycleStep s s.input else .refused .illegalConfig

/-- `s` with the command word of the opcode table's bits `w` offered in the present cycle, so that the next step accepts
it (log 11). -/
def State.withFetchWord (s : State) (nbits w : Nat) : State := s.offer (tableWord nbits w)

end Sys2Proof.Machine
end

