-- ==== Sys2Proof/Machine/HostSide.lean ====
section
/-! DEFINITION. The host's side of the port: pseudo-commands (30_encoding.md R70) and the assembler (R69). The block
never sees either. -/

namespace Sys2Proof.Machine

/-- The pseudo-commands (30_encoding.md R70). -/
inductive Pseudo where
  /-- FB_CLEAR. -/
  | fbClear
  /-- START_DARK (70_reset_and_hazards.md R143). -/
  | startDark
  /-- REFRESH ms. -/
  | refresh (ms : Word)
  /-- FB_SET_CH idx, X, v. -/
  | fbSetCh (idx : Index) (x : Channel) (v : Byte)
  deriving DecidableEq, Repr

/-- `FB_SET 0, 0,0,0,0 … FB_SET N−1, 0,0,0,0` (30_encoding.md R70). -/
def clearCommands (n : Nat) : List Instr := (List.range n).map (fun i => .fbSet (BitVec.ofNat 16 i) 0)

/-- The real commands of a pseudo-command for a strip of `n`; `returned` is the Color that the FB_GET of FB_SET_CH
answers (30_encoding.md R70). DESIGN CHOICE (log 23): REFRESH takes any 32-bit `ms`, and one past UPTIME_W bits expands to
a DELAY that the block rejects. -/
def Pseudo.expand (n : Nat) (returned : Color) : Pseudo → List Instr
  | .fbClear => clearCommands n
  | .startDark => clearCommands n ++ [.tx]
  | .refresh ms => [.tx, .delay ms]
  | .fbSetCh idx x v => [.fbGet idx, .fbSet idx (setChan returned x v)]

/-- The commands of one iteration of the source's host, its choices as arguments (43_port_and_status.md R121, log 22). -/
def controlLoop (fadeIdx : Index) (fadeColor : Color) (sampleIdx : Index) (sampleColor : Color) (d : Word) : List Instr :=
  [.fbSet fadeIdx fadeColor, .fbSet sampleIdx sampleColor, .tx, .delay d]

/-- A line of assembler with its operands as written (30_encoding.md R69). -/
inductive AsmLine where
  | nop
  | fbSetChannels (idx r g b w : Nat)
  | fbSetPacked (idx color : Nat)
  | fbGet (idx : Nat)
  | tx
  | delay (ms : Nat)
  | rdUptime
  | rdStatus
  deriving DecidableEq, Repr

/-- The command of a line; an operand that does not fit its field is refused, `idx ≥ N` is not (30_encoding.md R69). -/
def AsmLine.instr (uptimeW : Nat) : AsmLine → Option Instr
  | .nop => some .nop
  | .fbSetChannels idx r g b w =>
    if idx ≤ 65535 ∧ r ≤ 255 ∧ g ≤ 255 ∧ b ≤ 255 ∧ w ≤ 255 then
      some (.fbSet (BitVec.ofNat 16 idx)
        (packColor (BitVec.ofNat 8 r) (BitVec.ofNat 8 g) (BitVec.ofNat 8 b) (BitVec.ofNat 8 w)))
    else none
  | .fbSetPacked idx color =>
    if idx ≤ 65535 ∧ color < 2 ^ 32 then some (.fbSet (BitVec.ofNat 16 idx) (BitVec.ofNat 32 color)) else none
  | .fbGet idx => if idx ≤ 65535 then some (.fbGet (BitVec.ofNat 16 idx)) else none
  | .tx => some .tx
  | .delay ms => if ms ≤ 2 ^ uptimeW - 1 ∧ ms < 2 ^ 32 then some (.delay (BitVec.ofNat 32 ms)) else none
  | .rdUptime => some .rdUptime
  | .rdStatus => some .rdStatus

/-- The word of a line (30_encoding.md R69). -/
def AsmLine.word (uptimeW : Nat) (l : AsmLine) : Option CmdWord := (l.instr uptimeW).map encode

/-- The value of a digit in a base up to 16. -/
def digitValue (base : Nat) (ch : Char) : Option Nat :=
  let v :=
    if '0' ≤ ch ∧ ch ≤ '9' then ch.toNat - '0'.toNat
    else if 'a' ≤ ch ∧ ch ≤ 'f' then ch.toNat - 'a'.toNat + 10
    else if 'A' ≤ ch ∧ ch ≤ 'F' then ch.toNat - 'A'.toNat + 10
    else base
  if v < base then some v else none

/-- The digits after a number's value so far. -/
def readDigits (base : Nat) : Nat → List Char → Option Nat
  | acc, [] => some acc
  | acc, ch :: rest =>
    match digitValue base ch with
    | some v => readDigits base (acc * base + v) rest
    | none => none

/-- A number, decimal or `0x` hexadecimal (30_encoding.md R69). DESIGN CHOICE (log 16): a number of digits alone, so
the separator `_` of the spec's own literals (00_scope.md R11) and white space inside a number are refused. -/
def readNumber : List Char → Option Nat
  | [] => none
  | ['0', 'x'] => none
  | '0' :: 'x' :: digits => readDigits 16 0 digits
  | digits => readDigits 10 0 digits

/-- The parts of a list between its separators. -/
def splitAt (sep : Char) : List Char → List (List Char)
  | [] => [[]]
  | ch :: rest =>
    match splitAt sep rest with
    | [] => [[ch]]
    | part :: parts => if ch = sep then [] :: part :: parts else (ch :: part) :: parts

/-- A line's characters up to its comment, tabs as spaces (30_encoding.md R69, log 16). -/
def uncomment (line : List Char) : List Char :=
  (line.takeWhile (· ≠ ';')).map (fun ch => if ch = '\t' then ' ' else ch)

/-- Text without the spaces at its two ends. -/
def trimSpaces (chars : List Char) : List Char :=
  ((chars.dropWhile (· = ' ')).reverse.dropWhile (· = ' ')).reverse

/-- The operands after a mnemonic: numbers between commas, spaces ignored around a comma and at the ends, refused inside
a number (DESIGN CHOICE, log 16). -/
def readOperands (chars : List Char) : Option (List Nat) :=
  match trimSpaces chars with
  | [] => some []
  | cs => (splitAt ',' cs).mapM (fun part => readNumber (trimSpaces part))

/-- The line a mnemonic and its operands make (30_encoding.md R69). DESIGN CHOICE (log 16): the packed form, which R69
writes `0xRRGGBBWW`, takes a number in either base and with any count of digits. A pseudo-command is no line (DESIGN
CHOICE, log 23). -/
def asmLine (mnemonic : List Char) (operands : List Nat) : Option AsmLine :=
  if mnemonic = "NOP".toList then match operands with | [] => some .nop | _ => none
  else if mnemonic = "FB_SET".toList then
    match operands with
    | [idx, r, g, b, w] => some (.fbSetChannels idx r g b w)
    | [idx, color] => some (.fbSetPacked idx color)
    | _ => none
  else if mnemonic = "FB_GET".toList then match operands with | [idx] => some (.fbGet idx) | _ => none
  else if mnemonic = "TX".toList then match operands with | [] => some .tx | _ => none
  else if mnemonic = "DELAY".toList then match operands with | [ms] => some (.delay ms) | _ => none
  else if mnemonic = "RD_UPTIME".toList then match operands with | [] => some .rdUptime | _ => none
  else if mnemonic = "RD_STATUS".toList then match operands with | [] => some .rdStatus | _ => none
  else none

/-- One command per line (30_encoding.md R69): the line's command if it has one, `none` for text that is none, and an
empty answer for a blank or comment line. -/
def readLine (line : List Char) : Option (Option AsmLine) :=
  match (uncomment line).dropWhile (· = ' ') with
  | [] => some none
  | cs =>
    match readOperands (cs.dropWhile (· ≠ ' ')) with
    | none => none
    | some operands => (asmLine (cs.takeWhile (· ≠ ' ')) operands).map some

/-- The words of a program, a list of lines (30_encoding.md R69). -/
def assembleProgram (uptimeW : Nat) : List (List Char) → Option (List CmdWord)
  | [] => some []
  | line :: rest =>
    match readLine line, assembleProgram uptimeW rest with
    | some none, some words => some words
    | some (some l), some words => (l.word uptimeW).map (· :: words)
    | _, _ => none

end Sys2Proof.Machine
end

