-- ==== Sys2Proof/Machine/Waveform.lean ====
section
/-! DEFINITION. What a frame looks like on the wire (42_signal_driver.md R92, R95 to R97), and the receiver that tests
decode it with (R110). The block itself runs none of this: it is the clear form that the FSM is held against. -/

namespace Sys2Proof.Machine

/-- `bitp(fb, p)`: bit `p` of the frame (42_signal_driver.md R95, 20_memory.md R49). -/
def frameBit (c : Config) (fb : FrameBuffer) (p : Nat) : Bool :=
  (wireByte c.order (fb.read (p / 32)) (BitVec.ofNat 2 (p % 32 / 8))).getLsbD (7 - p % 8)

/-- `Serialize(fb)` (42_signal_driver.md R95). -/
def serialize (c : Config) (fb : FrameBuffer) : List Bool := (List.range (32 * c.n)).map (frameBit c fb)

/-- `Bit(b)`: one bit on the line (42_signal_driver.md R92). -/
def bitWave (c : Config) (b : Bool) : List Bool := List.replicate (c.th b) true ++ List.replicate (c.tl b) false

/-- `Waveform(fb)`: the frame's bits and then the reset gap (42_signal_driver.md R96). -/
def waveform (c : Config) (fb : FrameBuffer) : List Bool :=
  (serialize c fb).flatMap (bitWave c) ++ List.replicate c.tres false

/-- `L(fb)`, the cycles of one frame (42_signal_driver.md R97). -/
def frameLength (c : Config) (fb : FrameBuffer) : Nat :=
  ((serialize c fb).map (fun b => c.th b + c.tl b)).sum + c.tres

/-- The bit a high run of `h` cycles stands for (42_signal_driver.md R110). -/
def receivedBit (c : Config) (h : Nat) : Bool := decide (c.t0h + c.t1h < 2 * h)

/-- The loop of `Decode`, with fuel for its rounds: each round drops the run of 1s at the head and the run of 0s after
it (42_signal_driver.md R110). -/
def receiveLoop (c : Config) : Nat → List Bool → List Bool
  | 0, _ => []
  | fuel + 1, wave =>
    let h := (wave.takeWhile id).length
    let lowAndRest := wave.dropWhile id
    let l := (lowAndRest.takeWhile not).length
    let rest := lowAndRest.dropWhile not
    receivedBit c h :: (if max c.t0l c.t1l < l ∨ rest = [] then [] else receiveLoop c fuel rest)

/-- `Decode(wave)`, the received bits (42_signal_driver.md R110). Every round but the last drops at least one value, so
the fuel is enough. -/
def receive (c : Config) (wave : List Bool) : List Bool := receiveLoop c (wave.length + 1) wave

/-- A byte from its bits, the most significant first (42_signal_driver.md R110). -/
def byteOfBits (b7 b6 b5 b4 b3 b2 b1 b0 : Bool) : Byte :=
  BitVec.ofBool b7 ++ BitVec.ofBool b6 ++ BitVec.ofBool b5 ++ BitVec.ofBool b4 ++
    BitVec.ofBool b3 ++ BitVec.ofBool b2 ++ BitVec.ofBool b1 ++ BitVec.ofBool b0

/-- Received bits in bytes of 8, MSB first (42_signal_driver.md R110). DESIGN CHOICE (log 24): bits of an incomplete last
byte are dropped. -/
def groupBytes : List Bool → List Byte
  | b7 :: b6 :: b5 :: b4 :: b3 :: b2 :: b1 :: b0 :: rest => byteOfBits b7 b6 b5 b4 b3 b2 b1 b0 :: groupBytes rest
  | _ => []

/-- The byte that stands in channel `x`'s wire slot. -/
def slotByte (o : ChannelOrder) (s0 s1 s2 s3 : Byte) (x : Channel) : Byte :=
  if o.slot0 = x then s0 else if o.slot1 = x then s1 else if o.slot2 = x then s2 else s3

/-- Four wire bytes mapped back through `ORDER` (42_signal_driver.md R111). -/
def colorOfWire (o : ChannelOrder) (s0 s1 s2 s3 : Byte) : Color :=
  packColor (slotByte o s0 s1 s2 s3 .r) (slotByte o s0 s1 s2 s3 .g) (slotByte o s0 s1 s2 s3 .b)
    (slotByte o s0 s1 s2 s3 .w)

/-- Received bytes in groups of 4 per LED, as Colors (42_signal_driver.md R110, R111). DESIGN CHOICE (log 24): bytes of
an incomplete last group are dropped. -/
def groupColors (o : ChannelOrder) : List Byte → List Color
  | s0 :: s1 :: s2 :: s3 :: rest => colorOfWire o s0 s1 s2 s3 :: groupColors o rest
  | _ => []

/-- The Colors a receiver reads from a waveform (42_signal_driver.md R111). -/
def receivedColors (c : Config) (wave : List Bool) : List Color := groupColors c.order (groupBytes (receive c wave))

end Sys2Proof.Machine
end

