-- ==== Sys2Proof/Safety.lean ====
section
/-! DEFINITION. What a good state of the block is (10_state.md R40), what a run is, and what a claim may ask of the
environment (40_timebase.md R76, 42_signal_driver.md R100, 43_port_and_status.md R115). -/

namespace Sys2Proof.Machine

/-- The invariants of 10_state.md R40, with the register widths of R21, R22 and R31, the codes of 60_exceptions.md R122
and the canonical form of the FrameBuffer (log 5). -/
structure State.Inv (s : State) : Prop where
  /-- The build check passed (00_scope.md R9, 42_signal_driver.md R94). -/
  legal : s.cfg.legal = true
  /-- The FrameBuffer holds N Colors in canonical form. -/
  fbCanonical : s.fb.wf s.cfg.n = true
  /-- `uptime` fits its UPTIME_W bits. -/
  uptimeFits : s.uptime.toNat < 2 ^ s.cfg.uptimeW
  /-- `deadline` fits its UPTIME_W bits. -/
  deadlineFits : s.deadline.toNat < 2 ^ s.cfg.uptimeW
  /-- INV-TX. -/
  tx : s.ctl = .busyTx ↔ s.sd.phase ≠ .idle
  /-- INV-IDLE. -/
  idle : s.sd.phase = .idle → s.sd = SignalRegs.reset
  /-- INV-LED. -/
  led : s.sd.phase ≠ .idle → s.sd.led.toNat < s.cfg.n
  /-- INV-DOUT. -/
  dout : s.sd.dout = true ↔ s.sd.phase = .high
  /-- INV-HALT. -/
  halt : s.ctl = .halted ↔ s.faultCode ≠ 0
  /-- INV-CNT in SD_HIGH. -/
  cntHigh : s.sd.phase = .high → s.sd.cnt < s.cfg.th s.sd.curBit
  /-- INV-CNT in SD_LOW. -/
  cntLow : s.sd.phase = .low → s.sd.cnt < s.cfg.tl s.sd.curBit
  /-- INV-CNT in SD_GAP. -/
  cntGap : s.sd.phase = .gap → s.sd.cnt < s.cfg.tres
  /-- `sd_cnt` fits its CNT_W bits. -/
  cntFits : s.sd.cnt < 2 ^ s.cfg.cntW
  /-- The fault codes 4 to 15 never occur. -/
  faultCodes : s.faultCode.toNat ≤ 3
  /-- The response codes 4 to 15 never occur. -/
  statusCodes : s.rsp.status.toNat ≤ 3

/-- While a frame is sent, `sd_byte` is the byte of `fb` under the cursor (10_state.md R29, 41_framebuffer.md R90), and in
the reset gap the cursor stands on the frame's last bit (42_signal_driver.md R102). -/
structure State.FrameInv (s : State) : Prop where
  byteLoaded : s.sd.phase ≠ .idle → s.sd.byte = wireByte s.cfg.order (s.fb.read s.sd.led.toNat) s.sd.slot
  gapAtEnd : s.sd.phase = .gap → s.lastBit = true

/-- `s` accepts the word `w` in this step: READY, the SignalDriver idle as INV-TX has it, no reset, and `w` offered
(43_port_and_status.md R114). -/
structure State.Accepts (s : State) (w : CmdWord) : Prop where
  legal : s.cfg.legal = true
  ready : s.ctl = .ready
  idle : s.sd.phase = .idle
  noReset : s.input.rst = false
  valid : s.input.cmdValid = true
  word : s.input.cmdWord = w

/-- `t` is reached from `s` after exactly `k` steps. -/
def StepsTo : Nat → State → State → Prop
  | 0, s, t => t = s
  | k + 1, s, t => ∃ u, step s = .next u ∧ StepsTo k u t

/-- The state after the commands of a list have run one after the other, if each answers a next state
(20_memory.md R57: every command sees the effects of every command before it). -/
def execAll : List Instr → State → Option State
  | [], s => some s
  | i :: rest, s =>
    match exec i s with
    | .next t => execAll rest t
    | .fault _ => none
    | .refused _ => none

/-- The environment does not reset the block in the next `k` steps. -/
def State.NoResetFor (s : State) (k : Nat) : Prop := ∀ j, j < k → (s.inputAt j).rst = false

/-- No stall step can fall among the steps 1 to `k` from here: frames are masked, or the environment does not preempt
there (42_signal_driver.md R100). -/
def State.NoStallFor (s : State) (k : Nat) : Prop :=
  s.cfg.txMasksIrq = true ∨ ∀ j, 1 ≤ j → j ≤ k → (s.inputAt j).preempt = false

/-- The ticks the environment delivers in the next `k` steps. -/
def State.ticksIn (s : State) (k : Nat) : Nat := ((List.range k).filter (fun j => (s.inputAt j).tick)).length

/-- The tick source's contract for the next `k` steps: one-cycle pulses exactly `TICK_CYC` apart, the first of them
`phase` steps from now (40_timebase.md R76). -/
def State.TicksPeriodic (s : State) (k phase : Nat) : Prop :=
  phase < s.cfg.tickCyc ∧
    ∀ j, j < k → (s.inputAt j).tick = decide (phase ≤ j ∧ (j - phase) % s.cfg.tickCyc = 0)

/-- The host's duty: a word offered stays offered until a cycle in which the block is ready (43_port_and_status.md R115,
R120), said of the next `k` steps of a run. -/
def State.HostHolds (s : State) (k : Nat) : Prop :=
  ∀ j t, j < k → StepsTo j s t → t.ctl ≠ .ready → t.input.cmdValid = true →
    (s.inputAt (j + 1)).cmdValid = true ∧ (s.inputAt (j + 1)).cmdWord = t.input.cmdWord

end Sys2Proof.Machine
end

