-- ==== Sys2Proof/Certificates/Slice0/Obligations.lean ====
section
/-! DEFINITION. The statements for the provers, in the order of OBLIGATIONS.json. A statement about a command's meaning
holds of its pseudocode on every pre-state; that a step runs it exactly when the block accepts the command's word is
`Obligations.StepRunsTheDecodedCommand`. -/

open Sys2Proof Sys2Proof.Machine

/-! ### Encoding -/

/-- 30_encoding.md R62 to R66: every well-formed command, with every operand its fields hold, decodes from its word. -/
def Obligations.DecodeOfEncodeIsTheCommand : Prop :=
  ∀ (uptimeW : Nat) (i : Instr), i.wf uptimeW = true → decode uptimeW (encode i) = .ok i

/-- 30_encoding.md R63, R65: a command has one word, so a decoded word is the word of what it decodes to, and what is
decoded is well formed. -/
def Obligations.DecodedWordIsTheCommandsEncoding : Prop :=
  ∀ (uptimeW : Nat) (w : CmdWord) (i : Instr), decode uptimeW w = .ok i → encode i = w ∧ i.wf uptimeW = true

/-- 30_encoding.md R64, R65: decode gives a command of opcode `n` exactly for the words that have the form of the map's
row for `n`. -/
def Obligations.DecodeAcceptsExactlyTheRowsOfTheMap : Prop :=
  ∀ (uptimeW : Nat) (w : CmdWord) (n : Nat),
    (∃ i, decode uptimeW w = .ok i ∧ i.opcode = n) ↔
      ∃ row ∈ opcodeTable, row.op = n ∧ w &&& row.mask = row.pattern ∧
        (n = 4 → (dataField w).toNat < 2 ^ uptimeW)

/-- 95_test_vectors.md section 2.1 and 40_timebase.md, 41_framebuffer.md: words of the spec and what they stand for. -/
def Obligations.SpecWordsDecodeToTheirCommands : Prop :=
  decode 32 0x0000000000000000 = .ok .nop ∧
  decode 32 0x10000007C8000000 = .ok (.fbSet 7 0xC8000000) ∧
  decode 32 0x2000000300000000 = .ok (.fbGet 3) ∧
  decode 32 0x3000000000000000 = .ok .tx ∧
  decode 32 0x40000000FFFFFFFF = .ok (.delay 0xFFFFFFFF) ∧
  decode 32 0x5000000000000000 = .ok .rdUptime ∧
  decode 32 0x6000000000000000 = .ok .rdStatus ∧
  decode 4 0x4000000000000010 = .error .reservedBits ∧
  decode 32 0xF000000000000000 = .error .illegalOpcode

/-- 30_encoding.md R69: what the assembler makes of a line is a word that decodes to the line's command. -/
def Obligations.AssembledLineDecodesToItsCommand : Prop :=
  ∀ (uptimeW : Nat) (l : AsmLine) (w : CmdWord), l.word uptimeW = some w →
    ∃ i, l.instr uptimeW = some i ∧ decode uptimeW w = .ok i

/-- 20_memory.md R48: the four channels of a packed Color stand where the table says, and they are all of it. -/
def Obligations.PackedColorHoldsItsChannels : Prop :=
  (∀ (r g b w : Byte), chan (packColor r g b w) .r = r ∧ chan (packColor r g b w) .g = g ∧
    chan (packColor r g b w) .b = b ∧ chan (packColor r g b w) .w = w) ∧
  (∀ c : Color, packColor (chan c .r) (chan c .g) (chan c .b) (chan c .w) = c) ∧
  (∀ c : Color, chan c .r = c.extractLsb' 24 8 ∧ chan c .g = c.extractLsb' 16 8 ∧
    chan c .b = c.extractLsb' 8 8 ∧ chan c .w = c.extractLsb' 0 8)

/-! ### A step runs the decoded command -/

/-- 43_port_and_status.md R114, 10_state.md R43: in a step that accepts a word which decodes to `i`, the step is `exec i`
of the pre-state, with the TimeBase's registers, the wrap's write of `deadline` and the environment's move around it (the
schedule of inputs and the step number are the model's own, log 3; ControlStep alone checks READY, log 12). -/
def Obligations.StepRunsTheDecodedCommand : Prop :=
  ∀ (s : State) (w : CmdWord) (i : Instr), s.Accepts w → decode s.cfg.uptimeW w = .ok i →
    (∀ c, exec i s = .next c →
      step s = .next { c with
        uptime := (timeBaseStep s s.input.tick s.masked).uptime
        tickPending := (timeBaseStep s s.input.tick s.masked).tickPending
        deadline := if (timeBaseStep s s.input.tick s.masked).wrapped then 0 else c.deadline
        inputs := s.inputs.tail
        cycle := s.cycle + 1 }) ∧
    (∀ f, exec i s = .fault f → step s = .fault f) ∧
    (∀ r, exec i s = .refused r → step s = .refused r)

/-- 60_exceptions.md R124: a step that accepts a word decode rejects, or an index past N, enters HALTED: the four writes
of fault entry, the TimeBase's own update, and nothing else. That an index fault records the accepted word is log 10. -/
def Obligations.FaultingWordEntersHalted : Prop :=
  ∀ (s : State) (w : CmdWord) (f : Cause), s.Accepts w →
    ((∃ e, decode s.cfg.uptimeW w = .error e ∧ f = causeOf e) ∨
      (∃ idx color, decode s.cfg.uptimeW w = .ok (.fbSet idx color) ∧ s.cfg.n ≤ idx.toNat ∧ f = .indexOutOfRange) ∨
      (∃ idx, decode s.cfg.uptimeW w = .ok (.fbGet idx) ∧ s.cfg.n ≤ idx.toNat ∧ f = .indexOutOfRange)) →
    step s = .next { s with
      ctl := .halted
      faultCode := f.code
      faultCmd := w
      rsp := ⟨true, f.code, 0⟩
      uptime := (timeBaseStep s s.input.tick s.masked).uptime
      tickPending := (timeBaseStep s s.input.tick s.masked).tickPending
      deadline := if (timeBaseStep s s.input.tick s.masked).wrapped then 0 else s.deadline
      inputs := s.inputs.tail
      cycle := s.cycle + 1 }

/-- 60_exceptions.md R127: the first failing check decides the one code a word reports: ILLEGAL_OPCODE, then
RESERVED_BITS, then INDEX_OUT_OF_RANGE. -/
def Obligations.FirstFailingCheckDecidesTheCode : Prop :=
  (∀ (s : State) (w : CmdWord), s.Inv → s.Accepts w →
    ∃ t, step s = .next t ∧
      t.faultCode =
        (if 7 ≤ (opField w).toNat then Cause.illegalOpcode.code
         else if hasRowForm s.cfg.uptimeW w = false then Cause.reservedBits.code
         else if ((opField w).toNat = 1 ∨ (opField w).toNat = 2) ∧ s.cfg.n ≤ (idxField w).toNat then
           Cause.indexOutOfRange.code
         else 0)) ∧
  decode 32 0x7000000000000001 = .error .illegalOpcode

/-! ### The commands -/

/-- 43_port_and_status.md R117: NOP, the all-zero word, answers (OK, 0) and does nothing else, so `ctl` stays READY; any
other word of opcode 0 is rejected. -/
def Obligations.NopAnswersOk : Prop :=
  (∀ s : State, exec .nop s = .next { s with rsp := ⟨true, 0, 0⟩ }) ∧
  (∀ uptimeW : Nat, decode uptimeW 0 = .ok .nop) ∧
  (∀ (uptimeW : Nat) (w : CmdWord), opField w = 0 → w.extractLsb' 0 60 ≠ 0 →
    decode uptimeW w = .error .reservedBits)

/-- 41_framebuffer.md R85: below N the Color is stored at the index, the response is (OK, 0) and `ctl` stays; a word of
opcode 1 with RSV set is rejected. (Past N: `FailedFbSetLeavesTheBufferAndHalts`.) -/
def Obligations.FbSetStoresTheColor : Prop :=
  (∀ (idx : Index) (color : Color) (s : State), s.fb.wf s.cfg.n = true → idx.toNat < s.cfg.n →
    ∃ t, exec (.fbSet idx color) s = .next t ∧ t.fb.read idx.toNat = color ∧
      (∀ j, j ≠ idx.toNat → t.fb.read j = s.fb.read j) ∧ t.fb.wf s.cfg.n = true ∧
      t.rsp = ⟨true, 0, 0⟩ ∧ t.ctl = s.ctl) ∧
  (∀ (uptimeW : Nat) (w : CmdWord), opField w = 1 → rsvField w ≠ 0 → decode uptimeW w = .error .reservedBits)

/-- 41_framebuffer.md R86, with 60_exceptions.md R122, R124: a failed FB_SET leaves the buffer unchanged, halts the block,
and records and answers its fault. That the recorded word is the command's encoding is the model's reading (log 10). -/
def Obligations.FailedFbSetLeavesTheBufferAndHalts : Prop :=
  ∀ (idx : Index) (color : Color) (s : State), s.cfg.n ≤ idx.toNat →
    ∃ t, exec (.fbSet idx color) s = .next t ∧ (∀ j, t.fb.read j = s.fb.read j) ∧ t.ctl = .halted ∧
      t.faultCode = 1 ∧ t.faultCmd = encode (.fbSet idx color) ∧ t.rsp = ⟨true, 1, 0⟩

/-- 41_framebuffer.md R87: FB_GET answers the pre-state's Color below N, and faults with INDEX_OUT_OF_RANGE past it; a
word of opcode 2 with RSV or DATA set is rejected. That the recorded word is the command's encoding is the model's reading
(log 10). -/
def Obligations.FbGetAnswersTheColor : Prop :=
  (∀ (idx : Index) (s : State), idx.toNat < s.cfg.n →
    exec (.fbGet idx) s = .next { s with rsp := ⟨true, 0, s.fb.read idx.toNat⟩ }) ∧
  (∀ (idx : Index) (s : State), s.cfg.n ≤ idx.toNat →
    exec (.fbGet idx) s = .next { s with
      ctl := .halted, faultCode := 1, faultCmd := encode (.fbGet idx), rsp := ⟨true, 1, 0⟩ }) ∧
  (∀ (uptimeW : Nat) (w : CmdWord), opField w = 2 → rsvField w ≠ 0 ∨ dataField w ≠ 0 →
    decode uptimeW w = .error .reservedBits)

/-- 42_signal_driver.md R98: TX starts the frame at bit 7 of the first wire byte of LED 0, raises the line and answers
nothing yet; any other word of opcode 3 is rejected. -/
def Obligations.TxBeginsTheFrame : Prop :=
  (∀ s : State, 0 < s.cfg.n →
    ∃ t, exec .tx s = .next t ∧ t.ctl = .busyTx ∧ t.rsp.valid = false ∧
      t.sd.led = 0 ∧ t.sd.slot = 0 ∧ t.sd.bit = 7 ∧ t.sd.phase = .high ∧ t.sd.dout = true ∧
      t.sd.byte = wireByte s.cfg.order (s.fb.read 0) 0 ∧ t.sd.cnt = s.cfg.th (t.sd.byte.getLsbD 7) - 1) ∧
  (∀ (uptimeW : Nat) (w : CmdWord), opField w = 3 → w.extractLsb' 0 60 ≠ 0 →
    decode uptimeW w = .error .reservedBits)

/-- 40_timebase.md R77: DELAY sets `deadline` to the W-bit sum and holds the port with no response; the step that accepts
it leaves 0 there instead when the counter wraps in it; a word of opcode 4 with RSV or IDX set, or DATA past W bits, is
rejected. -/
def Obligations.DelaySetsTheDeadline : Prop :=
  (∀ (ms : Word) (s : State), s.cfg.uptimeW ≤ 32 →
    ∃ t, exec (.delay ms) s = .next t ∧ t.deadline.toNat = (s.uptime.toNat + ms.toNat) % 2 ^ s.cfg.uptimeW ∧
      t.ctl = .busyDelay ∧ t.rsp.valid = false) ∧
  (∀ (s : State) (w : CmdWord) (ms : Word), s.Inv → s.Accepts w → decode s.cfg.uptimeW w = .ok (.delay ms) →
    s.tickPending = true ∨ s.input.tick = true → s.uptime.toNat = 2 ^ s.cfg.uptimeW - 1 →
    ∃ t, step s = .next t ∧ t.deadline = 0 ∧ t.uptime = 0 ∧ t.ctl = .busyDelay) ∧
  (∀ (uptimeW : Nat) (w : CmdWord), opField w = 4 →
    rsvField w ≠ 0 ∨ idxField w ≠ 0 ∨ 2 ^ uptimeW ≤ (dataField w).toNat → decode uptimeW w = .error .reservedBits)

/-- 40_timebase.md R84: RD_UPTIME answers the pre-state's counter, in a step with a tick too, whose new value stands in
the next state; any other word of opcode 5 is rejected. -/
def Obligations.RdUptimeAnswersTheCounter : Prop :=
  (∀ s : State, exec .rdUptime s = .next { s with rsp := ⟨true, 0, s.uptime⟩ }) ∧
  (∀ uptimeW : Nat, decode uptimeW 0x5000000000000000 = .ok .rdUptime) ∧
  (∀ (s : State) (w : CmdWord), s.Accepts w → decode s.cfg.uptimeW w = .ok .rdUptime →
    ∃ t, step s = .next t ∧ t.rsp = ⟨true, 0, s.uptime⟩ ∧ t.ctl = .ready ∧
      (s.input.tick = true → s.uptime.toNat + 1 < 2 ^ s.cfg.uptimeW → t.uptime.toNat = s.uptime.toNat + 1)) ∧
  (∀ (uptimeW : Nat) (w : CmdWord), opField w = 5 → w.extractLsb' 0 60 ≠ 0 →
    decode uptimeW w = .error .reservedBits)

/-- 43_port_and_status.md R118, 10_state.md R35: RD_STATUS answers the STATUS word, field by field; in READY the fields
that READY rules out read 0; any other word of opcode 6 is rejected. -/
def Obligations.RdStatusAnswersTheStatusWord : Prop :=
  (∀ s : State, s.cfg.legal = true →
    ∃ t, exec .rdStatus s = .next t ∧ t.rsp.valid = true ∧ t.rsp.status = 0 ∧
      t.rsp.data.getLsbD 0 = decide (s.sd.phase ≠ .idle) ∧
      t.rsp.data.getLsbD 1 = decide (s.ctl = .busyDelay) ∧
      t.rsp.data.getLsbD 2 = s.tickPending ∧
      t.rsp.data.getLsbD 3 = s.cfg.txMasksIrq ∧
      t.rsp.data.extractLsb' 4 4 = s.faultCode ∧
      (t.rsp.data.extractLsb' 8 8).toNat = s.cfg.uptimeW ∧
      (t.rsp.data.extractLsb' 16 16).toNat = s.cfg.n ∧
      t.ctl = s.ctl) ∧
  (∀ uptimeW : Nat, decode uptimeW 0x6000000000000000 = .ok .rdStatus) ∧
  (∀ s t : State, s.Inv → s.ctl = .ready → exec .rdStatus s = .next t →
    t.rsp.data.getLsbD 0 = false ∧ t.rsp.data.getLsbD 1 = false ∧ t.rsp.data.extractLsb' 4 4 = 0) ∧
  (∀ (uptimeW : Nat) (w : CmdWord), opField w = 6 → w.extractLsb' 0 60 ≠ 0 →
    decode uptimeW w = .error .reservedBits)

/-! ### Frames -/

/-- 20_memory.md R55: NOP, FB_GET below N, RD_UPTIME and RD_STATUS change only the response register. -/
def Obligations.ReadingCommandsChangeOnlyTheResponse : Prop :=
  ∀ (i : Instr) (s t : State),
    (i = .nop ∨ i = .rdUptime ∨ i = .rdStatus ∨ ∃ idx : Index, i = .fbGet idx ∧ idx.toNat < s.cfg.n) →
    exec i s = .next t → t = { s with rsp := t.rsp } ∧ ∀ a, t.fb.read a = s.fb.read a

/-- 41_framebuffer.md R85, 20_memory.md R54, R55: FB_SET below N changes the response register and the Color at its
index, no other Color and no other register. -/
def Obligations.FbSetChangesOneColorAndTheResponse : Prop :=
  ∀ (idx : Index) (color : Color) (s t : State), idx.toNat < s.cfg.n → exec (.fbSet idx color) s = .next t →
    t = { s with fb := t.fb, rsp := t.rsp } ∧
    ∀ a, idx.toNat = a → ∀ b, b ≠ a → t.fb.read b = s.fb.read b

/-- 60_exceptions.md R124: FB_SET and FB_GET past N change `ctl`, the response and the fault record, and nothing else. -/
def Obligations.IndexFaultChangesOnlyTheFaultRecord : Prop :=
  ∀ (i : Instr) (s t : State) (idx : Index),
    (i = .fbGet idx ∨ ∃ color, i = .fbSet idx color) → s.cfg.n ≤ idx.toNat → exec i s = .next t →
    t = { s with ctl := t.ctl, rsp := t.rsp, faultCode := t.faultCode, faultCmd := t.faultCmd } ∧
    ∀ a, t.fb.read a = s.fb.read a

/-- 42_signal_driver.md R98, 40_timebase.md R77, 20_memory.md R55: TX changes `ctl`, the SignalDriver's registers and
`rsp_valid`, DELAY changes `ctl`, `deadline` and `rsp_valid`, and nothing else; neither changes stored data. -/
def Obligations.WaitingCommandsChangeOnlyTheirOwnRegisters : Prop :=
  (∀ s t : State, exec .tx s = .next t →
    t = { s with ctl := t.ctl, sd := t.sd, rsp := { s.rsp with valid := t.rsp.valid } } ∧
    ∀ a, t.fb.read a = s.fb.read a) ∧
  (∀ (ms : Word) (s t : State), exec (.delay ms) s = .next t →
    t = { s with ctl := t.ctl, deadline := t.deadline, rsp := { s.rsp with valid := t.rsp.valid } } ∧
    ∀ a, t.fb.read a = s.fb.read a)

/-! ### The FrameBuffer -/

/-- 41_framebuffer.md R88: a Color set is the Color an FB_GET of its index answers, after any run in which no FB_SET to
that index is accepted and no reset comes. -/
def Obligations.SetThenGetAnswersTheColor : Prop :=
  ∀ (s u v : State) (w w' : CmdWord) (idx : Index) (color : Color) (k : Nat),
    s.Inv → s.Accepts w → decode s.cfg.uptimeW w = .ok (.fbSet idx color) → idx.toNat < s.cfg.n →
    step s = .next u → StepsTo k u v → u.NoResetFor k →
    (∀ j x, j < k → StepsTo j u x →
      ¬ (x.ctl = .ready ∧ x.input.cmdValid = true ∧
        ∃ color', decode x.cfg.uptimeW x.input.cmdWord = .ok (.fbSet idx color'))) →
    v.Accepts w' → decode v.cfg.uptimeW w' = .ok (.fbGet idx) →
    ∃ t, step v = .next t ∧ t.rsp = ⟨true, 0, color⟩

/-- 20_memory.md R55: FB_SET is idempotent. -/
def Obligations.FbSetTwiceIsFbSetOnce : Prop :=
  ∀ (idx : Index) (color : Color) (s t : State), s.fb.wf s.cfg.n = true →
    exec (.fbSet idx color) s = .next t → exec (.fbSet idx color) t = .next t

/-- The model's own (log 5): two canonical FrameBuffers that read alike are the same data. -/
def Obligations.CanonicalBuffersThatReadAlikeAreEqual : Prop :=
  ∀ (n : Nat) (a b : FrameBuffer), a.wf n = true → b.wf n = true → (∀ i, a.read i = b.read i) → a = b

/-- 30_encoding.md R70: the commands of FB_CLEAR leave every Color {0,0,0,0}. -/
def Obligations.FbClearDarkensEveryLed : Prop :=
  ∀ s : State, s.Inv → ∃ t, execAll (clearCommands s.cfg.n) s = some t ∧ (∀ i, t.fb.read i = 0) ∧ t.fb = []

/-- 10_state.md R20, R41: `fb` changes in a step without reset only by an accepted FB_SET below N, and none is accepted
while a frame is sent. -/
def Obligations.OnlyAnAcceptedFbSetWritesTheBuffer : Prop :=
  ∀ s t : State, s.Inv → s.input.rst = false → step s = .next t → t.fb ≠ s.fb →
    s.ctl = .ready ∧ s.sd.phase = .idle ∧ s.input.cmdValid = true ∧
      ∃ idx color, decode s.cfg.uptimeW s.input.cmdWord = .ok (.fbSet idx color) ∧ idx.toNat < s.cfg.n ∧
        t.fb = s.fb.write idx.toNat color

/-! ### Reset and the invariants -/

/-- 10_state.md R44: the reset state, register by register, for every build; all invariants of R40 hold in it
(`State.Inv` also holds the model's own forms of log 5, 6, 7). -/
def Obligations.ResetStateHoldsTheStatedValues : Prop :=
  ∀ (cfg : Config) (inputs : List Input) (cycle : Nat) (s : State), s = State.resetWith cfg inputs cycle →
    (∀ i, s.fb.read i = 0) ∧ s.uptime = 0 ∧ s.deadline = 0 ∧ s.tickPending = false ∧ s.ctl = .ready ∧
    s.sd.phase = .idle ∧ s.sd.led = 0 ∧ s.sd.slot = 0 ∧ s.sd.bit = 0 ∧ s.sd.byte = 0 ∧ s.sd.cnt = 0 ∧
    s.sd.dout = false ∧ s.rsp.valid = false ∧ s.rsp.status = 0 ∧ s.rsp.data = 0 ∧ s.faultCode = 0 ∧ s.faultCmd = 0 ∧
    (cfg.legal = true → s.Inv)

/-- 70_reset_and_hazards.md R138, R139: a step with `rst = 1` gives RESET_STATE whatever the pre-state and the other
inputs are, and no register keeps its value across it. -/
def Obligations.ResetStepGivesTheResetState : Prop :=
  (∀ s : State, s.cfg.legal = true → s.input.rst = true →
    step s = .next (State.resetWith s.cfg s.inputs.tail (s.cycle + 1))) ∧
  (∀ s s' : State, s.cfg = s'.cfg → s.inputs.tail = s'.inputs.tail → s.cycle = s'.cycle →
    s.input.rst = true → s'.input.rst = true → step s = step s') ∧
  (∀ s t : State, s.input.rst = true → step s = .next t →
    t.output.dout = false ∧ t.output.cmdReady = true ∧ t.uptime = 0 ∧ ∀ i, t.fb.read i = 0)

/-- 10_state.md R40, R44: the invariants hold in the reset state of every legal build, the model's own reset at the
default build (log 1) among them; `State.Inv` also holds the model's own forms (log 5, 6, 7). -/
def Obligations.InvariantsHoldAtReset : Prop :=
  (∀ (cfg : Config) (inputs : List Input) (cycle : Nat), cfg.legal = true →
    (State.resetWith cfg inputs cycle).Inv ∧ (State.resetWith cfg inputs cycle).FrameInv) ∧
  State.reset.Inv

/-- 10_state.md R40: every step from a state with the invariants, under any inputs, gives a state with them, so every
state reachable from the reset state of a legal build has them. `State.Inv` holds R40's six invariants and, beside them,
the forms in which the model holds `fb`, the millisecond registers and `sd_cnt`, which are the model's own (log 5, 6, 7). -/
def Obligations.EveryStepKeepsTheInvariants : Prop :=
  (∀ s t : State, s.Inv → step s = .next t → t.Inv) ∧
  (∀ (k : Nat) (cfg : Config) (inputs : List Input) (cycle : Nat) (t : State), cfg.legal = true →
    StepsTo k (State.resetWith cfg inputs cycle) t → t.Inv)

/-- 10_state.md R29, 41_framebuffer.md R89, R90, 42_signal_driver.md R102: the byte register holds the frame's byte under
the cursor, and the gap begins only after the last bit; every step keeps both. -/
def Obligations.EveryStepKeepsTheFrameUnderTheCursor : Prop :=
  ∀ s t : State, s.Inv → s.FrameInv → step s = .next t → t.FrameInv

/-- 60_exceptions.md R123, 41_framebuffer.md R89: from a state with the invariants no step stops the machine: FrameRead
stays below N, and every command and every fault has a next state. -/
def Obligations.NoStepStopsTheMachine : Prop :=
  ∀ s : State, s.Inv → ∃ t, step s = .next t

/-- 93_implementation_defined.md R-5 (treatment 'refuse'; the model's reading of it is log 2): parameters that no build
may have are refused. -/
def Obligations.IllegalParametersAreRefused : Prop :=
  ∀ s : State, s.cfg.legal = false → step s = .refused .illegalConfig

/-! ### TimeBase -/

/-- 40_timebase.md R72, R74: in a step without reset a tick is held inside the masked window; outside it the held tick is
applied first and a new one held, one tick at most is applied, and the tick applied at the top value clears `uptime` and,
outside HALTED, `deadline` (in HALTED the spec's rules differ, log 9). -/
def Obligations.TickIsHeldOrAppliedOnce : Prop :=
  ∀ s t : State, s.Inv → s.input.rst = false → step s = .next t →
    (s.masked = true → t.uptime = s.uptime ∧ t.tickPending = (s.tickPending || s.input.tick)) ∧
    (s.masked = false → s.tickPending = true ∨ s.input.tick = true →
      t.tickPending = (s.tickPending && s.input.tick) ∧
      (s.uptime.toNat = 2 ^ s.cfg.uptimeW - 1 → t.uptime = 0 ∧ (s.ctl ≠ .halted → t.deadline = 0)) ∧
      (s.uptime.toNat ≠ 2 ^ s.cfg.uptimeW - 1 → t.uptime.toNat = s.uptime.toNat + 1)) ∧
    (s.masked = false → s.tickPending = false → s.input.tick = false →
      t.uptime = s.uptime ∧ t.tickPending = false)

/-- 40_timebase.md R75: a step without reset raises `uptime` by at most 1, and lowers it only by the wrap, which outside
HALTED clears `deadline` with it (R74; in HALTED: log 9); no command writes it. -/
def Obligations.UptimeRisesByOneOrWraps : Prop :=
  (∀ s t : State, s.Inv → s.input.rst = false → step s = .next t →
    t.uptime = s.uptime ∨ t.uptime.toNat = s.uptime.toNat + 1 ∨
      (s.uptime.toNat = 2 ^ s.cfg.uptimeW - 1 ∧ t.uptime = 0 ∧ (s.ctl ≠ .halted → t.deadline = 0))) ∧
  (∀ (i : Instr) (s t : State), exec i s = .next t → t.uptime = s.uptime)

/-- 40_timebase.md R72, R73: away from the wrap every tick of a step is counted or held, except a tick that arrives inside
the masked window while one is held: that one is lost. -/
def Obligations.OnlyASecondMaskedTickIsLost : Prop :=
  ∀ s t : State, s.Inv → s.input.rst = false → step s = .next t → s.uptime.toNat + 1 < 2 ^ s.cfg.uptimeW →
    t.uptime.toNat + t.tickPending.toNat =
      s.uptime.toNat + s.tickPending.toNat +
        (if s.masked = true ∧ s.tickPending = true then 0 else s.input.tick.toNat)

/-- 40_timebase.md R72, R80: in a run without reset `uptime` rises by no more than the ticks delivered and the one held at
its start, so a delay never ends before its ticks. -/
def Obligations.UptimeRisesOnlyByTicks : Prop :=
  ∀ (k : Nat) (s t : State), s.Inv → s.NoResetFor k → StepsTo k s t →
    t.uptime.toNat + t.tickPending.toNat ≤ s.uptime.toNat + s.tickPending.toNat + s.ticksIn k

/-- 40_timebase.md R73, R76, 42_signal_driver.md R109: with frames masked and ticks `TICK_CYC` apart, a frame shorter than
`TICK_CYC` loses no tick. -/
def Obligations.ShortFrameLosesNoTick : Prop :=
  ∀ (s : State) (w : CmdWord) (phase : Nat), s.Inv → s.Accepts w → decode s.cfg.uptimeW w = .ok .tx →
    s.cfg.txMasksIrq = true → frameLength s.cfg s.fb < s.cfg.tickCyc →
    s.TicksPeriodic (frameLength s.cfg s.fb + 1) phase →
    s.NoResetFor (frameLength s.cfg s.fb + 1) → s.uptime.toNat + 1 < 2 ^ s.cfg.uptimeW →
    ∃ t, StepsTo (frameLength s.cfg s.fb + 1) s t ∧ t.ctl = .ready ∧
      t.uptime.toNat + t.tickPending.toNat =
        s.uptime.toNat + s.tickPending.toNat + s.ticksIn (frameLength s.cfg s.fb + 1)

/-- 40_timebase.md R78: in BUSY_DELAY the comparison of the pre-state decides: READY and (OK, 0), or nothing. -/
def Obligations.DelayCompletesWhenUptimeReachesTheDeadline : Prop :=
  ∀ s : State, s.Inv → s.input.rst = false → s.ctl = .busyDelay →
    ∃ t, step s = .next t ∧
      (s.deadline.toNat ≤ s.uptime.toNat → t.ctl = .ready ∧ t.rsp = ⟨true, 0, 0⟩ ∧ t.output.cmdReady = true) ∧
      (s.uptime.toNat < s.deadline.toNat →
        t.ctl = .busyDelay ∧ t.rsp = { s.rsp with valid := false } ∧ t.output.cmdReady = false)

/-- 40_timebase.md R79: whatever is offered, a delay whose deadline is ahead goes on; reset alone ends it. -/
def Obligations.NothingButResetCancelsADelay : Prop :=
  ∀ s t : State, s.Inv → s.ctl = .busyDelay → s.uptime.toNat < s.deadline.toNat → step s = .next t →
    (s.input.rst = false → t.ctl = .busyDelay ∧ t.fb = s.fb ∧ t.sd = s.sd) ∧
    (s.input.rst = true → t.ctl = .ready)

/-- 40_timebase.md R80: `DELAY 0` completes in the step after its acceptance, whatever ticks come. -/
def Obligations.DelayOfZeroCompletesInTheNextStep : Prop :=
  ∀ (s : State) (w : CmdWord), s.Inv → s.Accepts w → decode s.cfg.uptimeW w = .ok (.delay 0) → s.NoResetFor 2 →
    ∃ t, StepsTo 2 s t ∧ t.ctl = .ready ∧ t.rsp = ⟨true, 0, 0⟩

/-- 40_timebase.md R80 (the premise `u0 + ms < 2^W` is R81's): the delay waits while `uptime` is short of its target and
completes in the first step whose pre-state has reached it. -/
def Obligations.DelayWaitsUntilItsTargetAndNoLonger : Prop :=
  ∀ (s : State) (w : CmdWord) (ms : Word) (c : Nat), s.Inv → s.Accepts w →
    decode s.cfg.uptimeW w = .ok (.delay ms) → 0 < ms.toNat →
    s.uptime.toNat + ms.toNat < 2 ^ s.cfg.uptimeW → 1 ≤ c → s.NoResetFor (c + 1) →
    (∀ j u, 1 ≤ j → j < c → StepsTo j s u → u.uptime.toNat < s.uptime.toNat + ms.toNat) →
    ∃ t, StepsTo c s t ∧ t.ctl = .busyDelay ∧ t.rsp.valid = false ∧
      t.deadline.toNat = s.uptime.toNat + ms.toNat ∧
      (s.uptime.toNat + ms.toNat ≤ t.uptime.toNat →
        ∃ v, step t = .next v ∧ v.ctl = .ready ∧ v.rsp = ⟨true, 0, 0⟩)

/-- 40_timebase.md R81: a deadline past the counter's range falls below `uptime`, and the delay completes in the step
after its acceptance, with or without a wrap in it. -/
def Obligations.OverflowingDelayCompletesInTheNextStep : Prop :=
  ∀ (s : State) (w : CmdWord) (ms : Word), s.Inv → s.Accepts w → decode s.cfg.uptimeW w = .ok (.delay ms) →
    2 ^ s.cfg.uptimeW ≤ s.uptime.toNat + ms.toNat → s.NoResetFor 2 →
    ∃ u t, step s = .next u ∧ u.ctl = .busyDelay ∧
      (u.deadline.toNat + 2 ^ s.cfg.uptimeW = s.uptime.toNat + ms.toNat ∧ u.deadline.toNat < s.uptime.toNat ∨
        u.deadline = 0 ∧ u.uptime = 0) ∧
      step u = .next t ∧ t.ctl = .ready ∧ t.rsp = ⟨true, 0, 0⟩

/-- 40_timebase.md R82: no delay is still waiting after a wrap: at the top value a waiting delay completes in that step,
and one accepted there completes in the next. -/
def Obligations.NoDelayWaitsAcrossAWrap : Prop :=
  (∀ s : State, s.Inv → s.input.rst = false → s.ctl = .busyDelay → s.uptime.toNat = 2 ^ s.cfg.uptimeW - 1 →
    ∃ t, step s = .next t ∧ t.ctl = .ready ∧ t.rsp = ⟨true, 0, 0⟩) ∧
  (∀ (s : State) (w : CmdWord) (ms : Word), s.Inv → s.Accepts w → decode s.cfg.uptimeW w = .ok (.delay ms) →
    s.uptime.toNat = 2 ^ s.cfg.uptimeW - 1 → s.NoResetFor 2 →
    ∃ t, StepsTo 2 s t ∧ t.ctl = .ready ∧ t.rsp = ⟨true, 0, 0⟩)

/-- 40_timebase.md R83: with no tick held and none delivered, a delay whose deadline is ahead waits for ever. -/
def Obligations.DelayHangsWithoutTicks : Prop :=
  ∀ (k : Nat) (s : State), s.Inv → s.ctl = .busyDelay → s.uptime.toNat < s.deadline.toNat →
    s.tickPending = false → s.NoResetFor k → (∀ j, j < k → (s.inputAt j).tick = false) →
    ∃ t, StepsTo k s t ∧ t.ctl = .busyDelay ∧ t.output.cmdReady = false ∧ t.uptime = s.uptime ∧
      t.deadline = s.deadline ∧ (0 < k → t.rsp.valid = false)

/-! ### The port and HALTED -/

/-- 60_exceptions.md R125, R126: without reset a HALTED block stays HALTED under any inputs: it accepts nothing, answers
nothing, keeps the line low, and its `fb`, fault record and last answer never change, while ticks are counted as ever
(`TickIsHeldOrAppliedOnce`). Nor does `deadline` change while too few ticks come for the counter to wrap; nothing is said
of it after a wrap in HALTED, on which R125 and R43, R74, R152 differ (log 9). -/
def Obligations.HaltedLastsUntilReset : Prop :=
  ∀ (k : Nat) (s : State), s.Inv → s.ctl = .halted → s.NoResetFor k →
    ∃ t, StepsTo k s t ∧ t.ctl = .halted ∧ t.output.cmdReady = false ∧ t.fb = s.fb ∧
      (s.uptime.toNat + s.tickPending.toNat + s.ticksIn k < 2 ^ s.cfg.uptimeW → t.deadline = s.deadline) ∧
      t.faultCode = s.faultCode ∧ t.faultCmd = s.faultCmd ∧ t.sd = SignalRegs.reset ∧ t.output.dout = false ∧
      t.rsp.status = s.rsp.status ∧ t.rsp.data = s.rsp.data ∧ (0 < k → t.rsp.valid = false)

/-- 60_exceptions.md R123: the block enters HALTED only in a step that accepts a word which decode rejects or whose index
is past N: never while a frame is sent or a delay waits, and never by a tick. -/
def Obligations.FaultArisesOnlyFromTheAcceptedWord : Prop :=
  ∀ s t : State, s.ctl ≠ .halted → step s = .next t → t.ctl = .halted →
    s.ctl = .ready ∧ s.input.rst = false ∧ s.input.cmdValid = true ∧
      ((∃ e, decode s.cfg.uptimeW s.input.cmdWord = .error e) ∨
        (∃ idx color, decode s.cfg.uptimeW s.input.cmdWord = .ok (.fbSet idx color) ∧ s.cfg.n ≤ idx.toNat) ∨
        (∃ idx, decode s.cfg.uptimeW s.input.cmdWord = .ok (.fbGet idx) ∧ s.cfg.n ≤ idx.toNat))

/-- 60_exceptions.md R128: events of one step in their order. Reset overrides everything; a tick and a command both take
effect, the command on the pre-state; a wrap wins over a DELAY; a tick is applied beside a fault; the step that accepts a
TX is not masked, and the step that completes one is, so its tick is delivered in the next. -/
def Obligations.SimultaneousEventsFollowTheirPriorities : Prop :=
  (∀ s t : State, step s = .next t → s.input.rst = true →
    t = State.resetWith s.cfg s.inputs.tail (s.cycle + 1)) ∧
  (∀ (s t : State) (w : CmdWord), s.Inv → s.Accepts w → s.input.tick = true →
    s.uptime.toNat + 1 < 2 ^ s.cfg.uptimeW → step s = .next t →
    t.uptime.toNat = s.uptime.toNat + 1 ∧ t.tickPending = s.tickPending ∧
    (decode s.cfg.uptimeW w = .ok .rdUptime → t.rsp.data = s.uptime) ∧
    (∀ ms, decode s.cfg.uptimeW w = .ok (.delay ms) →
      t.deadline.toNat = (s.uptime.toNat + ms.toNat) % 2 ^ s.cfg.uptimeW) ∧
    (decode s.cfg.uptimeW w = .ok .tx → t.ctl = .busyTx ∧ t.sd.dout = true) ∧
    ((∃ e, decode s.cfg.uptimeW w = .error e) ∨
      (∃ idx color, decode s.cfg.uptimeW w = .ok (.fbSet idx color) ∧ s.cfg.n ≤ idx.toNat) ∨
      (∃ idx, decode s.cfg.uptimeW w = .ok (.fbGet idx) ∧ s.cfg.n ≤ idx.toNat) → t.ctl = .halted)) ∧
  (∀ (s t : State) (w : CmdWord) (ms : Word), s.Inv → s.Accepts w → decode s.cfg.uptimeW w = .ok (.delay ms) →
    s.input.tick = true → s.uptime.toNat = 2 ^ s.cfg.uptimeW - 1 → step s = .next t →
    t.deadline = 0 ∧ t.uptime = 0 ∧ t.ctl = .busyDelay) ∧
  (∀ s t u : State, s.Inv → s.NoResetFor 2 → s.cfg.txMasksIrq = true → s.sd.phase = .gap → s.sd.cnt = 0 →
    s.input.tick = true → s.uptime.toNat + 1 < 2 ^ s.cfg.uptimeW → step s = .next t → step t = .next u →
    t.tickPending = true ∧ t.uptime = s.uptime ∧ t.ctl = .ready ∧ u.uptime.toNat = s.uptime.toNat + 1)

/-- 43_port_and_status.md R116, R119: `rsp_valid` is 1 in the cycle after a completing step and in no other, and between
responses `rsp_status` and `rsp_data` keep their values. -/
def Obligations.ResponseFollowsTheCompletingStep : Prop :=
  ∀ s t : State, s.Inv → s.input.rst = false → step s = .next t →
    (t.rsp.valid = true ↔
      (s.ctl = .ready ∧ s.input.cmdValid = true ∧
        ¬ (∃ i, decode s.cfg.uptimeW s.input.cmdWord = .ok i ∧ (i = .tx ∨ ∃ ms, i = .delay ms))) ∨
      (s.sd.phase = .gap ∧ s.sd.cnt = 0 ∧ s.stalled s.input.preempt = false) ∨
      (s.ctl = .busyDelay ∧ s.deadline.toNat ≤ s.uptime.toNat)) ∧
    (t.rsp.valid = false → t.rsp.status = s.rsp.status ∧ t.rsp.data = s.rsp.data)

/-- 43_port_and_status.md R115: while the port is not ready, neither `cmd_valid` nor `cmd_word` has any effect: the word
is not accepted and not stored. -/
def Obligations.OfferWhileNotReadyHasNoEffect : Prop :=
  ∀ (s : State) (inp : Input) (rest : List Input) (v : Bool) (w : CmdWord), s.ctl ≠ .ready → s.inputs = inp :: rest →
    step { s with inputs := { inp with cmdValid := v, cmdWord := w } :: rest } = step s

/-- 43_port_and_status.md R114, R115, R120: a word that the host holds is accepted in the first ready state without
reset: the step from there is that word's acceptance, its command's rule run or its fault entered on that state. -/
def Obligations.HeldWordIsAcceptedWhenReady : Prop :=
  ∀ (k : Nat) (s t : State), s.Inv → s.HostHolds k → s.input.cmdValid = true →
    (∀ j u, j < k → StepsTo j s u → u.ctl ≠ .ready) → StepsTo k s t → t.ctl = .ready → t.input.rst = false →
    t.Accepts s.input.cmdWord ∧
    ∃ c v, accept t s.input.cmdWord = .next c ∧ step t = .next v ∧
      v.ctl = c.ctl ∧ v.rsp = c.rsp ∧ v.fb = c.fb ∧ v.sd = c.sd ∧ v.faultCode = c.faultCode ∧ v.faultCmd = c.faultCmd ∧
      (∀ i, decode s.cfg.uptimeW s.input.cmdWord = .ok i → exec i t = .next c) ∧
      (∀ e, decode s.cfg.uptimeW s.input.cmdWord = .error e →
        c.ctl = .halted ∧ c.faultCode = (causeOf e).code ∧ c.faultCmd = s.input.cmdWord)

/-! ### SignalDriver -/

/-- 42_signal_driver.md R101: the SD_HIGH step counts down with the line high, then drops it for the bit's low phase. -/
def Obligations.HighPhaseStep : Prop :=
  ∀ s : State, s.Inv → s.input.rst = false → s.sd.phase = .high → s.stalled s.input.preempt = false →
    ∃ t, step s = .next t ∧ t.ctl = .busyTx ∧
      (0 < s.sd.cnt → t.sd = { s.sd with cnt := s.sd.cnt - 1 } ∧ t.sd.dout = true) ∧
      (s.sd.cnt = 0 → t.sd = { s.sd with dout := false, phase := .low, cnt := s.cfg.tl s.sd.curBit - 1 })

/-- 42_signal_driver.md R102, R103: the SD_LOW step counts down with the line low; then the gap follows the frame's last
bit, and the next bit's rising edge any other: the next bit of the byte, the next channel's byte, or the next LED's
first byte, read from `fb`. -/
def Obligations.LowPhaseStep : Prop :=
  ∀ s : State, s.Inv → s.input.rst = false → s.sd.phase = .low → s.stalled s.input.preempt = false →
    ∃ t, step s = .next t ∧ t.ctl = .busyTx ∧
      (0 < s.sd.cnt → t.sd = { s.sd with cnt := s.sd.cnt - 1 } ∧ t.sd.dout = false) ∧
      (s.sd.cnt = 0 → s.lastBit = true → t.sd = { s.sd with phase := .gap, cnt := s.cfg.tres - 1 } ∧ t.sd.dout = false) ∧
      (s.sd.cnt = 0 → s.lastBit = false →
        t.sd.phase = .high ∧ t.sd.dout = true ∧ t.sd.cnt = s.cfg.th (t.sd.byte.getLsbD t.sd.bit.toNat) - 1 ∧
        (0 < s.sd.bit.toNat →
          t.sd.led = s.sd.led ∧ t.sd.slot = s.sd.slot ∧ t.sd.bit.toNat = s.sd.bit.toNat - 1 ∧ t.sd.byte = s.sd.byte) ∧
        (s.sd.bit.toNat = 0 → s.sd.slot.toNat < 3 →
          t.sd.led = s.sd.led ∧ t.sd.slot.toNat = s.sd.slot.toNat + 1 ∧ t.sd.bit = 7 ∧
          t.sd.byte = wireByte s.cfg.order (s.fb.read s.sd.led.toNat) t.sd.slot) ∧
        (s.sd.bit.toNat = 0 → s.sd.slot.toNat = 3 →
          t.sd.led.toNat = s.sd.led.toNat + 1 ∧ t.sd.led.toNat < s.cfg.n ∧ t.sd.slot = 0 ∧ t.sd.bit = 7 ∧
          t.sd.byte = wireByte s.cfg.order (s.fb.read (s.sd.led.toNat + 1)) 0))

/-- 42_signal_driver.md R104, R105: the SD_GAP step counts down with the line low, then the unit goes idle and TX
completes with (OK, 0). -/
def Obligations.GapStepCompletesTheFrame : Prop :=
  ∀ s : State, s.Inv → s.input.rst = false → s.sd.phase = .gap → s.stalled s.input.preempt = false →
    ∃ t, step s = .next t ∧
      (0 < s.sd.cnt → t.sd = { s.sd with cnt := s.sd.cnt - 1 } ∧ t.sd.dout = false ∧ t.ctl = .busyTx) ∧
      (s.sd.cnt = 0 →
        t.sd.phase = .idle ∧ t.sd.led = 0 ∧ t.sd.slot = 0 ∧ t.sd.bit = 0 ∧ t.sd.byte = 0 ∧ t.sd.cnt = 0 ∧
        t.sd.dout = false ∧ t.ctl = .ready ∧ t.rsp = ⟨true, 0, 0⟩)

/-- 42_signal_driver.md R100: a preempted step outside the masked window changes nothing in the unit; with frames masked
`preempt` has no effect at all. -/
def Obligations.PreemptStallsOnlyUnmaskedFrames : Prop :=
  (∀ s t : State, s.Inv → s.input.rst = false → s.sd.phase ≠ .idle → s.input.preempt = true → s.masked = false →
    step s = .next t → t.sd = s.sd ∧ t.ctl = .busyTx) ∧
  (∀ (s : State) (inp : Input) (rest : List Input) (p : Bool), s.cfg.txMasksIrq = true → s.inputs = inp :: rest →
    step { s with inputs := { inp with preempt := p } :: rest } = step s)

/-- 41_framebuffer.md R90: from the acceptance of a TX to the state after its completion the frame's Colors stand still. -/
def Obligations.FrameStandsStillDuringTx : Prop :=
  ∀ (k : Nat) (s t : State) (w : CmdWord), s.Inv → s.Accepts w → decode s.cfg.uptimeW w = .ok .tx → s.NoResetFor k →
    (∀ j u, 1 ≤ j → j < k → StepsTo j s u → u.sd.phase ≠ .idle) → StepsTo k s t → t.fb = s.fb

/-- 10_state.md R30, 20_memory.md R49: the bit being sent is the frame's bit at the cursor's position. -/
def Obligations.CursorNamesTheBitBeingSent : Prop :=
  ∀ s : State, s.FrameInv → s.sd.phase ≠ .idle → frameBit s.cfg s.fb s.sd.position = s.sd.curBit

/-- 42_signal_driver.md R106: an accepted TX with no stall puts exactly the frame's waveform on the line, completes after
L(F) steps and leaves the block ready, its response given, the unit idle and the line low. -/
def Obligations.TxPutsTheWaveformOnTheLine : Prop :=
  ∀ (s : State) (w : CmdWord), s.Inv → s.Accepts w → decode s.cfg.uptimeW w = .ok .tx →
    s.NoResetFor (frameLength s.cfg s.fb + 1) → s.NoStallFor (frameLength s.cfg s.fb) →
    (∀ j, 1 ≤ j → j ≤ frameLength s.cfg s.fb →
      ∃ t, StepsTo j s t ∧ (waveform s.cfg s.fb)[j - 1]? = some t.output.dout ∧ t.output.cmdReady = false) ∧
    ∃ t, StepsTo (frameLength s.cfg s.fb + 1) s t ∧ t.ctl = .ready ∧ t.rsp = ⟨true, 0, 0⟩ ∧
      t.sd.phase = .idle ∧ t.output.dout = false

/-- 42_signal_driver.md R96, R97: the waveform lasts L(fb) cycles; with equal bit periods that is 32·N periods and the
gap, and at the default timing 640·N + 1280. -/
def Obligations.FrameLengthDependsOnTheStripLength : Prop :=
  (∀ (c : Config) (fb : FrameBuffer), (waveform c fb).length = frameLength c fb) ∧
  (∀ (c : Config) (fb : FrameBuffer), c.t0h + c.t0l = c.t1h + c.t1l →
    frameLength c fb = 32 * c.n * (c.t0h + c.t0l) + c.tres) ∧
  (∀ (n : Nat) (fb : FrameBuffer), frameLength { Config.default with n := n } fb = 640 * n + 1280)

/-- 42_signal_driver.md R111: under R94 items 1 and 2 and a gap longer than the low phases differ, the receiver reads back
the frame's bits, and through ORDER every Color of the strip. -/
def Obligations.ReceiverReadsBackTheFrame : Prop :=
  ∀ (c : Config) (fb : FrameBuffer), c.legal = true → max c.t0l c.t1l - min c.t0l c.t1l < c.tres →
    receive c (waveform c fb) = serialize c fb ∧
    receivedColors c (waveform c fb) = (List.range c.n).map fb.read
end

