-- ==== Sys2Proof/Laws/Build.lean ====
section
/-! SUPPORT. What the build check says (00_scope.md R9, 42_signal_driver.md R94). -/

namespace Sys2Proof

/-- The build check, item by item. -/
theorem Config.legal_iff (c : Config) :
    c.legal = true ↔
      (1 ≤ c.n ∧ c.n ≤ 65535) ∧ (1 ≤ c.uptimeW ∧ c.uptimeW ≤ 32) ∧ (0 < c.fClk ∧ 1 ≤ c.tickCyc) ∧
      (1 ≤ c.t0h ∧ 1 ≤ c.t0l ∧ 1 ≤ c.t1h ∧ 1 ≤ c.t1l ∧ 1 ≤ c.tres) ∧ c.t0h < c.t1h ∧ c.order.toList.Nodup ∧
      c.maxPhase - 1 < 2 ^ c.cntW := by
  simp only [Config.legal, Bool.and_eq_true, decide_eq_true_eq, and_assoc]

theorem Config.default_legal : Config.default.legal = true := by decide

theorem Config.th_pos {c : Config} (h : c.legal = true) (b : Bool) : 1 ≤ c.th b := by
  have hc := (Config.legal_iff c).mp h
  cases b
  · exact hc.2.2.2.1.1
  · exact hc.2.2.2.1.2.2.1

theorem Config.tl_pos {c : Config} (h : c.legal = true) (b : Bool) : 1 ≤ c.tl b := by
  have hc := (Config.legal_iff c).mp h
  cases b
  · exact hc.2.2.2.1.2.1
  · exact hc.2.2.2.1.2.2.2.1

theorem Config.th_le_maxPhase (c : Config) (b : Bool) : c.th b ≤ c.maxPhase := by
  cases b <;> simp [Config.th, Config.maxPhase]

theorem Config.tl_le_maxPhase (c : Config) (b : Bool) : c.tl b ≤ c.maxPhase := by
  cases b <;> simp [Config.tl, Config.maxPhase]

theorem Config.tres_le_maxPhase (c : Config) : c.tres ≤ c.maxPhase := le_max_right _ _

/-- A phase of a legal build, less one, fits `sd_cnt` (42_signal_driver.md R94 item 3). -/
theorem Config.pred_fits {c : Config} (h : c.legal = true) {phase : Nat} (hp : phase ≤ c.maxPhase) :
    phase - 1 < 2 ^ c.cntW := by
  have := ((Config.legal_iff c).mp h).2.2.2.2.2.2
  omega

end Sys2Proof
end

