-- ==== Sys2Proof/Laws/FrameBuffer.lean ====
section
/-! SUPPORT. The FrameBuffer's laws: reading after writing, and the canonical form kept by every operation
(41_framebuffer.md R85, R86, R88). -/

namespace Sys2Proof.Machine

theorem FrameBuffer.wfFrom_cons_iff (n lo j : Nat) (d : Color) (rest : FrameBuffer) :
    FrameBuffer.wfFrom n lo ((j, d) :: rest) = true ↔
      lo ≤ j ∧ j < n ∧ d ≠ 0 ∧ FrameBuffer.wfFrom n (j + 1) rest = true := by
  simp [FrameBuffer.wfFrom, and_assoc]

theorem FrameBuffer.wfFrom_mono {n lo lo' : Nat} {fb : FrameBuffer} (h : FrameBuffer.wfFrom n lo' fb = true)
    (hlo : lo ≤ lo') : FrameBuffer.wfFrom n lo fb = true := by
  cases fb with
  | nil => rfl
  | cons cell rest =>
    obtain ⟨j, d⟩ := cell
    rw [FrameBuffer.wfFrom_cons_iff] at h ⊢
    exact ⟨hlo.trans h.1, h.2⟩

/-- A canonical list holds no cell below where it begins. -/
theorem FrameBuffer.read_below {n lo i : Nat} {fb : FrameBuffer} (h : FrameBuffer.wfFrom n lo fb = true)
    (hi : i < lo) : fb.read i = 0 := by
  induction fb generalizing lo with
  | nil => rfl
  | cons cell rest ih =>
    obtain ⟨j, d⟩ := cell
    rw [FrameBuffer.wfFrom_cons_iff] at h
    rw [FrameBuffer.read, if_neg (by omega)]
    exact ih h.2.2.2 (by omega)

/-- A canonical list holds no cell past the last Color. -/
theorem FrameBuffer.read_above {n lo i : Nat} {fb : FrameBuffer} (h : FrameBuffer.wfFrom n lo fb = true)
    (hi : n ≤ i) : fb.read i = 0 := by
  induction fb generalizing lo with
  | nil => rfl
  | cons cell rest ih =>
    obtain ⟨j, d⟩ := cell
    rw [FrameBuffer.wfFrom_cons_iff] at h
    rw [FrameBuffer.read, if_neg (by omega)]
    exact ih h.2.2.2

theorem FrameBuffer.read_put_same {n : Nat} {i : Nat} {c : Color} {rest : FrameBuffer}
    (h : FrameBuffer.wfFrom n (i + 1) rest = true) : (FrameBuffer.put i c rest).read i = c := by
  unfold FrameBuffer.put
  split
  · rename_i hc
    rw [hc]
    exact FrameBuffer.read_below h (Nat.lt_succ_self i)
  · simp [FrameBuffer.read]

theorem FrameBuffer.read_put_other {i k : Nat} (hk : k ≠ i) (c : Color) (rest : FrameBuffer) :
    (FrameBuffer.put i c rest).read k = rest.read k := by
  unfold FrameBuffer.put
  split
  · rfl
  · simp [FrameBuffer.read, hk]

/-- The Color written is the Color read. -/
theorem FrameBuffer.read_write_same {n lo : Nat} {fb : FrameBuffer} (h : FrameBuffer.wfFrom n lo fb = true)
    (i : Nat) (c : Color) : (fb.write i c).read i = c := by
  induction fb generalizing lo with
  | nil => exact FrameBuffer.read_put_same (n := n) rfl
  | cons cell rest ih =>
    obtain ⟨j, d⟩ := cell
    have hc := (FrameBuffer.wfFrom_cons_iff n lo j d rest).mp h
    unfold FrameBuffer.write
    split
    · exact FrameBuffer.read_put_same
        ((FrameBuffer.wfFrom_cons_iff n _ j d rest).mpr ⟨by omega, hc.2.1, hc.2.2.1, hc.2.2.2⟩)
    · split
      · rename_i hij
        subst hij
        exact FrameBuffer.read_put_same hc.2.2.2
      · rename_i hij
        rw [FrameBuffer.read, if_neg hij]
        exact ih hc.2.2.2

/-- Every other index reads as before. -/
theorem FrameBuffer.read_write_other {i k : Nat} (hk : k ≠ i) (c : Color) (fb : FrameBuffer) :
    (fb.write i c).read k = fb.read k := by
  induction fb with
  | nil => exact FrameBuffer.read_put_other hk c []
  | cons cell rest ih =>
    obtain ⟨j, d⟩ := cell
    unfold FrameBuffer.write
    split
    · exact FrameBuffer.read_put_other hk c _
    · split
      · rename_i hij
        subst hij
        rw [FrameBuffer.read_put_other hk, FrameBuffer.read, if_neg hk]
      · simp only [FrameBuffer.read, ih]

theorem FrameBuffer.put_wfFrom {n lo i : Nat} {c : Color} {rest : FrameBuffer} (hlo : lo ≤ i) (hi : i < n)
    (h : FrameBuffer.wfFrom n (i + 1) rest = true) : FrameBuffer.wfFrom n lo (FrameBuffer.put i c rest) = true := by
  unfold FrameBuffer.put
  split
  · exact FrameBuffer.wfFrom_mono h (by omega)
  · rename_i hc
    exact (FrameBuffer.wfFrom_cons_iff ..).mpr ⟨hlo, hi, hc, h⟩

/-- A write keeps the canonical form. -/
theorem FrameBuffer.write_wfFrom {n lo i : Nat} {fb : FrameBuffer} (h : FrameBuffer.wfFrom n lo fb = true)
    (hlo : lo ≤ i) (hi : i < n) (c : Color) : FrameBuffer.wfFrom n lo (fb.write i c) = true := by
  induction fb generalizing lo with
  | nil => exact FrameBuffer.put_wfFrom hlo hi rfl
  | cons cell rest ih =>
    obtain ⟨j, d⟩ := cell
    have hc := (FrameBuffer.wfFrom_cons_iff n lo j d rest).mp h
    unfold FrameBuffer.write
    split
    · exact FrameBuffer.put_wfFrom hlo hi
        ((FrameBuffer.wfFrom_cons_iff n _ j d rest).mpr ⟨by omega, hc.2.1, hc.2.2.1, hc.2.2.2⟩)
    · split
      · rename_i hij
        subst hij
        exact FrameBuffer.put_wfFrom hlo hi hc.2.2.2
      · rename_i hlt hij
        exact (FrameBuffer.wfFrom_cons_iff ..).mpr ⟨hc.1, hc.2.1, hc.2.2.1, ih hc.2.2.2 (by omega)⟩

/-- FB_SET keeps the canonical form. -/
theorem FrameBuffer.write_wf {n i : Nat} {fb : FrameBuffer} (h : fb.wf n = true) (hi : i < n) (c : Color) :
    (fb.write i c).wf n = true :=
  FrameBuffer.write_wfFrom h (Nat.zero_le i) hi c

/-- Reset's FrameBuffer is canonical and reads as 0 everywhere (10_state.md R44). -/
theorem FrameBuffer.reset_wf (n : Nat) : FrameBuffer.wf [] n = true := rfl

@[simp] theorem FrameBuffer.read_nil (i : Nat) : FrameBuffer.read [] i = 0 := rfl

end Sys2Proof.Machine
end

