-- ==== Sys2Proof/Laws/SignalDriver.lean ====
section
/-! SUPPORT. Everything SignalDriver can do in a step (42_signal_driver.md R98 to R104). -/

namespace Sys2Proof.Machine

/-- FrameRead answers exactly below N (41_framebuffer.md R89). -/
theorem frameRead_of_lt {s : State} {led : Nat} (h : led < s.cfg.n) (slot : BitVec 2) :
    s.frameRead led slot = .ok (wireByte s.cfg.order (s.fb.read led) slot) := if_pos h

theorem frameRead_ok {s : State} {led : Nat} {slot : BitVec 2} {b : Byte} (h : s.frameRead led slot = .ok b) :
    led < s.cfg.n ∧ b = wireByte s.cfg.order (s.fb.read led) slot := by
  unfold State.frameRead at h
  split at h
  · exact ⟨‹_›, by cases h; rfl⟩
  · cases h

/-- Advance: the next bit of the byte, the next channel, or the next LED (42_signal_driver.md R103). -/
theorem advanceBit_cases {s : State} {r : SignalRegs} (h : advanceBit s = .ok r) :
    (0 < s.sd.bit.toNat ∧ r = beginBit s.cfg s.sd.led s.sd.slot (s.sd.bit - 1) s.sd.byte) ∨
      (s.sd.bit.toNat = 0 ∧ s.sd.slot.toNat < 3 ∧ s.sd.led.toNat < s.cfg.n ∧
        r = beginBit s.cfg s.sd.led (s.sd.slot + 1) 7
          (wireByte s.cfg.order (s.fb.read s.sd.led.toNat) (s.sd.slot + 1))) ∨
      (s.sd.bit.toNat = 0 ∧ s.sd.slot.toNat = 3 ∧ s.sd.led.toNat + 1 < s.cfg.n ∧
        r = beginBit s.cfg (s.sd.led + 1) 0 7 (wireByte s.cfg.order (s.fb.read (s.sd.led.toNat + 1)) 0)) := by
  unfold advanceBit at h
  split at h
  · cases h; exact .inl ⟨‹_›, rfl⟩
  · split at h
    · split at h
      · cases h
      · rename_i hb
        obtain ⟨hlt, rfl⟩ := frameRead_ok hb
        cases h
        exact .inr (.inl ⟨by omega, ‹_›, hlt, rfl⟩)
    · split at h
      · cases h
      · rename_i hb
        obtain ⟨hlt, rfl⟩ := frameRead_ok hb
        cases h
        have := s.sd.slot.isLt
        exact .inr (.inr ⟨by omega, by omega, hlt, rfl⟩)

/-- The SD_LOW step counts, enters the gap after the last bit, or advances (42_signal_driver.md R102). -/
theorem lowStep_cases {s : State} {r : SignalRegs} (h : lowStep s = .ok r) :
    (0 < s.sd.cnt ∧ r = { s.sd with cnt := s.sd.cnt - 1 }) ∨
      (s.sd.cnt = 0 ∧ s.lastBit = true ∧ r = { s.sd with phase := .gap, cnt := s.cfg.tres - 1 }) ∨
      (s.sd.cnt = 0 ∧ s.lastBit = false ∧ advanceBit s = .ok r) := by
  unfold lowStep at h
  split at h
  · cases h; exact .inl ⟨‹_›, rfl⟩
  · split at h
    · cases h; exact .inr (.inl ⟨by omega, ‹_›, rfl⟩)
    · rename_i hl
      exact .inr (.inr ⟨by omega, by simpa using hl, h⟩)

/-- SdStep, phase by phase (42_signal_driver.md R99). -/
theorem sdStep_cases {s : State} {preempt : Bool} {o : SdOut} (h : sdStep s preempt = .ok o) :
    (s.stalled preempt = true ∧ o = ⟨s.sd, false⟩) ∨
      (s.sd.phase = .idle ∧ o = ⟨s.sd, false⟩) ∨
      (s.stalled preempt = false ∧ s.sd.phase = .high ∧ o = ⟨highStep s, false⟩) ∨
      (s.stalled preempt = false ∧ s.sd.phase = .low ∧ ∃ r, lowStep s = .ok r ∧ o = ⟨r, false⟩) ∨
      (s.stalled preempt = false ∧ s.sd.phase = .gap ∧ o = gapStep s) := by
  unfold sdStep at h
  split at h
  · cases h; exact .inl ⟨‹_›, rfl⟩
  · rename_i hst
    have hst : s.stalled preempt = false := by simpa using hst
    split at h <;> rename_i hp
    · cases h; exact .inr (.inl ⟨hp, rfl⟩)
    · cases h; exact .inr (.inr (.inl ⟨hst, hp, rfl⟩))
    · split at h
      · cases h
      · rename_i r hr
        cases h
        exact .inr (.inr (.inr (.inl ⟨hst, hp, r, hr, rfl⟩)))
    · cases h; exact .inr (.inr (.inr (.inr ⟨hst, hp, rfl⟩)))

/-- A frame is done exactly in the last step of its gap (42_signal_driver.md R104). -/
theorem gapStep_cases (s : State) :
    (0 < s.sd.cnt ∧ gapStep s = ⟨{ s.sd with cnt := s.sd.cnt - 1 }, false⟩) ∨
      (s.sd.cnt = 0 ∧ gapStep s = ⟨SignalRegs.reset, true⟩) := by
  unfold gapStep
  split
  · exact .inl ⟨‹_›, rfl⟩
  · exact .inr ⟨by omega, rfl⟩

/-- In an idle phase SdStep changes nothing. -/
theorem sdStep_idle {s : State} (h : s.sd.phase = .idle) (preempt : Bool) : sdStep s preempt = .ok ⟨s.sd, false⟩ := by
  unfold sdStep
  split
  · rfl
  · rw [h]

end Sys2Proof.Machine
end

