-- ==== Sys2Proof/Laws/Control.lean ====
section
/-! SUPPORT. Everything a command and the controller can do: each meaning inverted once, and ControlStep by the state of
the controller (43_port_and_status.md R114). -/

namespace Sys2Proof.Machine

/-- FB_SET: the Color written and OK, or the index fault (41_framebuffer.md R85). -/
theorem execFbSet_cases {idx : Index} {color : Color} {s t : State} (h : execFbSet idx color s = .next t) :
    (idx.toNat < s.cfg.n ∧ t = { s.respond statusOk 0 with fb := s.fb.write idx.toNat color }) ∨
      (s.cfg.n ≤ idx.toNat ∧ t = s.raise .indexOutOfRange (encode (.fbSet idx color))) := by
  unfold execFbSet Config.inRange at h
  split at h <;> rename_i hr <;> simp at hr <;> cases h
  · exact .inl ⟨hr, rfl⟩
  · exact .inr ⟨hr, rfl⟩

/-- FB_GET: the Color answered, or the index fault (41_framebuffer.md R87). -/
theorem execFbGet_cases {idx : Index} {s t : State} (h : execFbGet idx s = .next t) :
    (idx.toNat < s.cfg.n ∧ t = s.respond statusOk (s.fb.read idx.toNat)) ∨
      (s.cfg.n ≤ idx.toNat ∧ t = s.raise .indexOutOfRange (encode (.fbGet idx))) := by
  unfold execFbGet Config.inRange at h
  split at h <;> rename_i hr <;> simp at hr <;> cases h
  · exact .inl ⟨hr, rfl⟩
  · exact .inr ⟨hr, rfl⟩

/-- TX: the frame begun (42_signal_driver.md R98). -/
theorem execTx_cases {s t : State} (h : execTx s = .next t) :
    0 < s.cfg.n ∧
      t = { s.noResponse with
        sd := beginBit s.cfg 0 0 7 (wireByte s.cfg.order (s.fb.read 0) 0)
        ctl := .busyTx } := by
  unfold execTx at h
  split at h
  · cases h
  · rename_i hb
    obtain ⟨hlt, rfl⟩ := frameRead_ok hb
    cases h
    exact ⟨hlt, rfl⟩

/-- No command writes the millisecond counter, the held tick, the build, or the environment (10_state.md R21, R23). -/
theorem exec_keeps_timeBase {i : Instr} {s t : State} (h : exec i s = .next t) :
    t.cfg = s.cfg ∧ t.uptime = s.uptime ∧ t.tickPending = s.tickPending ∧ t.inputs = s.inputs ∧ t.cycle = s.cycle := by
  cases i with
  | nop => cases h; exact ⟨rfl, rfl, rfl, rfl, rfl⟩
  | fbSet idx color => rcases execFbSet_cases h with ⟨-, rfl⟩ | ⟨-, rfl⟩ <;> exact ⟨rfl, rfl, rfl, rfl, rfl⟩
  | fbGet idx => rcases execFbGet_cases h with ⟨-, rfl⟩ | ⟨-, rfl⟩ <;> exact ⟨rfl, rfl, rfl, rfl, rfl⟩
  | tx => obtain ⟨-, rfl⟩ := execTx_cases h; exact ⟨rfl, rfl, rfl, rfl, rfl⟩
  | delay ms => cases h; exact ⟨rfl, rfl, rfl, rfl, rfl⟩
  | rdUptime => cases h; exact ⟨rfl, rfl, rfl, rfl, rfl⟩
  | rdStatus => cases h; exact ⟨rfl, rfl, rfl, rfl, rfl⟩

/-- Acceptance: the decoded command's effect, or the decode fault entered. -/
theorem accept_cases {s t : State} {w : CmdWord} (h : accept s w = .next t) :
    (∃ i, decode s.cfg.uptimeW w = .ok i ∧ exec i s = .next t) ∨
      (∃ e, decode s.cfg.uptimeW w = .error e ∧ t = s.raise (causeOf e) w) := by
  unfold accept at h
  split at h
  · exact .inl ⟨_, ‹_›, h⟩
  · cases h; exact .inr ⟨_, ‹_›, rfl⟩

/-- ControlStep by the state of the controller (43_port_and_status.md R114). -/
theorem controlStep_cases {s t : State} {v : Bool} {w : CmdWord} {done : Bool}
    (h : controlStep s v w done = .next t) :
    (s.ctl = .ready ∧ v = true ∧ accept s w = .next t) ∨
      (s.ctl = .ready ∧ v = false ∧ t = s.noResponse) ∨
      (s.ctl = .busyTx ∧ t = txStep s done) ∨
      (s.ctl = .busyDelay ∧ t = delayStep s) ∨
      (s.ctl = .halted ∧ t = s.noResponse) := by
  unfold controlStep at h
  split at h <;> rename_i hc
  · cases v
    · cases h; exact .inr (.inl ⟨hc, rfl, rfl⟩)
    · exact .inl ⟨hc, rfl, h⟩
  · cases h; exact .inr (.inr (.inl ⟨hc, rfl⟩))
  · cases h; exact .inr (.inr (.inr (.inl ⟨hc, rfl⟩)))
  · cases h; exact .inr (.inr (.inr (.inr ⟨hc, rfl⟩)))

/-- A running TX completes in the step its frame is done (42_signal_driver.md R105). -/
theorem txStep_cases (s : State) (done : Bool) :
    (done = true ∧ txStep s done = { s.respond statusOk 0 with ctl := .ready }) ∨
      (done = false ∧ txStep s done = s.noResponse) := by
  cases done
  · exact .inr ⟨rfl, rfl⟩
  · exact .inl ⟨rfl, rfl⟩

end Sys2Proof.Machine
end

