-- ==== Sys2Proof/Laws/Decode.lean ====
section
/-! SUPPORT. The fields of a packed command word, and the word of its fields (30_encoding.md R62). -/

namespace Sys2Proof

@[simp] theorem opField_packWord (op : BitVec 4) (idx : Index) (data : Word) : opField (packWord op idx data) = op := by
  unfold opField packWord
  ext k hk
  simp only [BitVec.getElem_extractLsb', BitVec.getLsbD_append]
  rw [if_neg (by omega), if_neg (by omega), if_neg (by omega), ← BitVec.getLsbD_eq_getElem hk]
  congr 1; omega

@[simp] theorem rsvField_packWord (op : BitVec 4) (idx : Index) (data : Word) : rsvField (packWord op idx data) = 0 := by
  unfold rsvField packWord
  ext k hk
  simp only [BitVec.getElem_extractLsb', BitVec.getLsbD_append]
  rw [if_neg (by omega), if_neg (by omega), if_pos (by omega)]
  simp

@[simp] theorem idxField_packWord (op : BitVec 4) (idx : Index) (data : Word) : idxField (packWord op idx data) = idx := by
  unfold idxField packWord
  ext k hk
  simp only [BitVec.getElem_extractLsb', BitVec.getLsbD_append]
  rw [if_neg (by omega), if_pos (by omega), ← BitVec.getLsbD_eq_getElem hk]
  congr 1; omega

@[simp] theorem dataField_packWord (op : BitVec 4) (idx : Index) (data : Word) :
    dataField (packWord op idx data) = data := by
  unfold dataField packWord
  ext k hk
  simp only [BitVec.getElem_extractLsb', BitVec.getLsbD_append]
  rw [if_pos (by omega), ← BitVec.getLsbD_eq_getElem hk]
  congr 1; omega

/-- A word whose RSV is 0 is the word of its fields. -/
theorem packWord_fields {w : CmdWord} (h : rsvField w = 0) : packWord (opField w) (idxField w) (dataField w) = w := by
  have hr : ∀ k, 48 ≤ k → k < 60 → w.getLsbD k = false := by
    intro k h1 h2
    have := congrArg (fun v : BitVec 12 => v.getLsbD (k - 48)) h
    simp only [rsvField, BitVec.getLsbD_extractLsb'] at this
    rw [show 48 + (k - 48) = k by omega] at this
    simpa [show k - 48 < 12 by omega] using this
  apply BitVec.eq_of_getLsbD_eq
  intro k hk
  unfold packWord opField idxField dataField
  simp only [BitVec.getLsbD_append, BitVec.getLsbD_extractLsb', BitVec.getLsbD_zero]
  by_cases h1 : k < 32
  · simp [h1]
  · by_cases h2 : k < 48
    · simp [h1, show k - 32 < 16 by omega, show 32 + (k - 32) = k by omega]
    · by_cases h3 : k < 60
      · simp [h1, show ¬ k - 32 < 16 by omega, show k - 32 - 16 < 12 by omega, hr k (by omega) h3]
      · simp [h1, show ¬ k - 32 < 16 by omega, show ¬ k - 32 - 16 < 12 by omega,
          show k - 32 - 16 - 12 < 4 by omega, show 60 + (k - 32 - 16 - 12) = k by omega]

theorem decodeZ_ok {w : CmdWord} {i j : Instr} (h : decodeZ w i = .ok j) :
    idxField w = 0 ∧ dataField w = 0 ∧ j = i := by
  unfold decodeZ at h
  split at h
  · rename_i hz; cases h; exact ⟨hz.1, hz.2, rfl⟩
  · cases h

/-- Everything decode can answer that is a command, field by field (30_encoding.md R65). -/
theorem decode_ok_cases {uptimeW : Nat} {w : CmdWord} {i : Instr} (h : decode uptimeW w = .ok i) :
    rsvField w = 0 ∧
      ((opField w = 0 ∧ idxField w = 0 ∧ dataField w = 0 ∧ i = .nop) ∨
        (opField w = 1 ∧ i = .fbSet (idxField w) (dataField w)) ∨
        (opField w = 2 ∧ dataField w = 0 ∧ i = .fbGet (idxField w)) ∨
        (opField w = 3 ∧ idxField w = 0 ∧ dataField w = 0 ∧ i = .tx) ∨
        (opField w = 4 ∧ idxField w = 0 ∧ (dataField w).toNat < 2 ^ uptimeW ∧ i = .delay (dataField w)) ∨
        (opField w = 5 ∧ idxField w = 0 ∧ dataField w = 0 ∧ i = .rdUptime) ∨
        (opField w = 6 ∧ idxField w = 0 ∧ dataField w = 0 ∧ i = .rdStatus)) := by
  unfold decode at h
  split at h
  · cases h
  · split at h
    · cases h
    · rename_i hr
      refine ⟨by simpa using hr, ?_⟩
      split at h <;> rename_i ho
      · exact .inl ⟨BitVec.eq_of_toNat_eq ho, decodeZ_ok h⟩
      · cases h; exact .inr (.inl ⟨BitVec.eq_of_toNat_eq ho, rfl⟩)
      · split at h
        · cases h; exact .inr (.inr (.inl ⟨BitVec.eq_of_toNat_eq ho, ‹_›, rfl⟩))
        · cases h
      · exact .inr (.inr (.inr (.inl ⟨BitVec.eq_of_toNat_eq ho, decodeZ_ok h⟩)))
      · split at h
        · cases h
        · split at h
          · cases h
          · rename_i hi hd
            cases h
            exact .inr (.inr (.inr (.inr (.inl
              ⟨BitVec.eq_of_toNat_eq ho, by simpa using hi, Nat.lt_of_not_le hd, rfl⟩))))
      · exact .inr (.inr (.inr (.inr (.inr (.inl ⟨BitVec.eq_of_toNat_eq ho, decodeZ_ok h⟩)))))
      · exact .inr (.inr (.inr (.inr (.inr (.inr ⟨BitVec.eq_of_toNat_eq ho, decodeZ_ok h⟩)))))
      · cases h

/-- A packed word as the sum of its fields. -/
theorem packWord_toNat (op : BitVec 4) (idx : Index) (data : Word) :
    (packWord op idx data).toNat = op.toNat * 2 ^ 60 + idx.toNat * 2 ^ 32 + data.toNat := by
  unfold packWord
  simp only [BitVec.toNat_append, BitVec.toNat_ofNat, Nat.zero_mod, Nat.shiftLeft_eq]
  have h1 := idx.isLt
  have h2 := data.isLt
  simp only [Nat.or_zero]
  rw [Nat.mul_comm _ (2 ^ 16), ← Nat.two_pow_add_eq_or_of_lt h1, Nat.mul_comm _ (2 ^ 32),
    ← Nat.two_pow_add_eq_or_of_lt h2]
  ring

end Sys2Proof
end

