-- ==== Sys2Proof/Laws/PerInstr.lean ====
section
/-! SUPPORT. One fact about every command as syntax: its word has the form of its row of the opcode map
(30_encoding.md R64). -/

namespace Sys2Proof.Laws.RowForm

/-- The command's word, under the mask of the row of its opcode, is that row's pattern. -/
def Statement (i : Sys2Proof.Instr) : Prop :=
  ∃ row ∈ Sys2Proof.opcodeTable, row.op = i.opcode ∧ Sys2Proof.encode i &&& row.mask = row.pattern

open Sys2Proof

/-- A word masked to OP, RSV and IDX or DATA, by its bits. -/
theorem masked_packWord (op : BitVec 4) (idx : Index) (data : Word) (mo : BitVec 4) (mr : BitVec 12) (mi : Index)
    (md : Word) :
    packWord op idx data &&& (mo ++ mr ++ mi ++ md) = packWord (op &&& mo) (idx &&& mi) (data &&& md) := by
  apply BitVec.eq_of_getLsbD_eq
  intro k hk
  simp only [packWord, BitVec.getLsbD_and, BitVec.getLsbD_append, BitVec.getLsbD_zero]
  split <;> [rfl; split <;> [rfl; split <;> simp]]

theorem nop : Statement .nop :=
  ⟨⟨0, 0x0000000000000000, 0xFFFFFFFFFFFFFFFF⟩, by decide, rfl, by decide⟩

theorem fbSet (idx : Index) (color : Color) : Statement (.fbSet idx color) := by
  refine ⟨⟨1, 0x1000000000000000, 0xFFFF000000000000⟩, by decide, rfl, ?_⟩
  change packWord 1 idx color &&& (0xF#4 ++ 0xFFF#12 ++ 0#16 ++ 0#32) = _
  rw [masked_packWord, BitVec.and_zero, BitVec.and_zero]
  decide

theorem fbGet (idx : Index) : Statement (.fbGet idx) := by
  refine ⟨⟨2, 0x2000000000000000, 0xFFFF0000FFFFFFFF⟩, by decide, rfl, ?_⟩
  change packWord 2 idx 0#32 &&& (0xF#4 ++ 0xFFF#12 ++ 0#16 ++ 0xFFFFFFFF#32) = _
  rw [masked_packWord, BitVec.and_zero]
  decide

theorem tx : Statement .tx :=
  ⟨⟨3, 0x3000000000000000, 0xFFFFFFFFFFFFFFFF⟩, by decide, rfl, by decide⟩

theorem delay (ms : Word) : Statement (.delay ms) := by
  refine ⟨⟨4, 0x4000000000000000, 0xFFFFFFFF00000000⟩, by decide, rfl, ?_⟩
  change packWord 4 0#16 ms &&& (0xF#4 ++ 0xFFF#12 ++ 0xFFFF#16 ++ 0#32) = _
  rw [masked_packWord, BitVec.and_zero]
  decide

theorem rdUptime : Statement .rdUptime :=
  ⟨⟨5, 0x5000000000000000, 0xFFFFFFFFFFFFFFFF⟩, by decide, rfl, by decide⟩

theorem rdStatus : Statement .rdStatus :=
  ⟨⟨6, 0x6000000000000000, 0xFFFFFFFFFFFFFFFF⟩, by decide, rfl, by decide⟩

end Sys2Proof.Laws.RowForm
end

