-- ==== Sys2Proof/Laws/State.lean ====
section
/-! SUPPORT. One lemma per field per update of the state, so that no later proof unfolds a record update. -/

namespace Sys2Proof.Machine

variable (s c : State)

section noResponse

@[simp] theorem State.noResponse_cfg : s.noResponse.cfg = s.cfg := rfl
@[simp] theorem State.noResponse_fb : s.noResponse.fb = s.fb := rfl
@[simp] theorem State.noResponse_uptime : s.noResponse.uptime = s.uptime := rfl
@[simp] theorem State.noResponse_deadline : s.noResponse.deadline = s.deadline := rfl
@[simp] theorem State.noResponse_tickPending : s.noResponse.tickPending = s.tickPending := rfl
@[simp] theorem State.noResponse_ctl : s.noResponse.ctl = s.ctl := rfl
@[simp] theorem State.noResponse_sd : s.noResponse.sd = s.sd := rfl
@[simp] theorem State.noResponse_rsp : s.noResponse.rsp = { s.rsp with valid := false } := rfl
@[simp] theorem State.noResponse_faultCode : s.noResponse.faultCode = s.faultCode := rfl
@[simp] theorem State.noResponse_faultCmd : s.noResponse.faultCmd = s.faultCmd := rfl
@[simp] theorem State.noResponse_inputs : s.noResponse.inputs = s.inputs := rfl
@[simp] theorem State.noResponse_cycle : s.noResponse.cycle = s.cycle := rfl

end noResponse

section respond

@[simp] theorem State.respond_cfg (status : BitVec 4) (data : Word) : (s.respond status data).cfg = s.cfg := rfl
@[simp] theorem State.respond_fb (status : BitVec 4) (data : Word) : (s.respond status data).fb = s.fb := rfl
@[simp] theorem State.respond_uptime (status : BitVec 4) (data : Word) : (s.respond status data).uptime = s.uptime := rfl
@[simp] theorem State.respond_deadline (status : BitVec 4) (data : Word) : (s.respond status data).deadline = s.deadline := rfl
@[simp] theorem State.respond_tickPending (status : BitVec 4) (data : Word) : (s.respond status data).tickPending = s.tickPending := rfl
@[simp] theorem State.respond_ctl (status : BitVec 4) (data : Word) : (s.respond status data).ctl = s.ctl := rfl
@[simp] theorem State.respond_sd (status : BitVec 4) (data : Word) : (s.respond status data).sd = s.sd := rfl
@[simp] theorem State.respond_rsp (status : BitVec 4) (data : Word) : (s.respond status data).rsp = ⟨true, status, data⟩ := rfl
@[simp] theorem State.respond_faultCode (status : BitVec 4) (data : Word) : (s.respond status data).faultCode = s.faultCode := rfl
@[simp] theorem State.respond_faultCmd (status : BitVec 4) (data : Word) : (s.respond status data).faultCmd = s.faultCmd := rfl
@[simp] theorem State.respond_inputs (status : BitVec 4) (data : Word) : (s.respond status data).inputs = s.inputs := rfl
@[simp] theorem State.respond_cycle (status : BitVec 4) (data : Word) : (s.respond status data).cycle = s.cycle := rfl

end respond

section raise

@[simp] theorem State.raise_cfg (f : Cause) (w : CmdWord) : (s.raise f w).cfg = s.cfg := rfl
@[simp] theorem State.raise_fb (f : Cause) (w : CmdWord) : (s.raise f w).fb = s.fb := rfl
@[simp] theorem State.raise_uptime (f : Cause) (w : CmdWord) : (s.raise f w).uptime = s.uptime := rfl
@[simp] theorem State.raise_deadline (f : Cause) (w : CmdWord) : (s.raise f w).deadline = s.deadline := rfl
@[simp] theorem State.raise_tickPending (f : Cause) (w : CmdWord) : (s.raise f w).tickPending = s.tickPending := rfl
@[simp] theorem State.raise_ctl (f : Cause) (w : CmdWord) : (s.raise f w).ctl = .halted := rfl
@[simp] theorem State.raise_sd (f : Cause) (w : CmdWord) : (s.raise f w).sd = s.sd := rfl
@[simp] theorem State.raise_rsp (f : Cause) (w : CmdWord) : (s.raise f w).rsp = ⟨true, f.code, 0⟩ := rfl
@[simp] theorem State.raise_faultCode (f : Cause) (w : CmdWord) : (s.raise f w).faultCode = f.code := rfl
@[simp] theorem State.raise_faultCmd (f : Cause) (w : CmdWord) : (s.raise f w).faultCmd = w := rfl
@[simp] theorem State.raise_inputs (f : Cause) (w : CmdWord) : (s.raise f w).inputs = s.inputs := rfl
@[simp] theorem State.raise_cycle (f : Cause) (w : CmdWord) : (s.raise f w).cycle = s.cycle := rfl

end raise

section advanceEnv

@[simp] theorem State.advanceEnv_cfg : s.advanceEnv.cfg = s.cfg := rfl
@[simp] theorem State.advanceEnv_fb : s.advanceEnv.fb = s.fb := rfl
@[simp] theorem State.advanceEnv_uptime : s.advanceEnv.uptime = s.uptime := rfl
@[simp] theorem State.advanceEnv_deadline : s.advanceEnv.deadline = s.deadline := rfl
@[simp] theorem State.advanceEnv_tickPending : s.advanceEnv.tickPending = s.tickPending := rfl
@[simp] theorem State.advanceEnv_ctl : s.advanceEnv.ctl = s.ctl := rfl
@[simp] theorem State.advanceEnv_sd : s.advanceEnv.sd = s.sd := rfl
@[simp] theorem State.advanceEnv_rsp : s.advanceEnv.rsp = s.rsp := rfl
@[simp] theorem State.advanceEnv_faultCode : s.advanceEnv.faultCode = s.faultCode := rfl
@[simp] theorem State.advanceEnv_faultCmd : s.advanceEnv.faultCmd = s.faultCmd := rfl
@[simp] theorem State.advanceEnv_inputs : s.advanceEnv.inputs = s.inputs.tail := rfl
@[simp] theorem State.advanceEnv_cycle : s.advanceEnv.cycle = s.cycle + 1 := rfl

end advanceEnv

section toReset

@[simp] theorem State.toReset_cfg : s.toReset.cfg = s.cfg := rfl
@[simp] theorem State.toReset_fb : s.toReset.fb = [] := rfl
@[simp] theorem State.toReset_uptime : s.toReset.uptime = 0 := rfl
@[simp] theorem State.toReset_deadline : s.toReset.deadline = 0 := rfl
@[simp] theorem State.toReset_tickPending : s.toReset.tickPending = false := rfl
@[simp] theorem State.toReset_ctl : s.toReset.ctl = .ready := rfl
@[simp] theorem State.toReset_sd : s.toReset.sd = SignalRegs.reset := rfl
@[simp] theorem State.toReset_rsp : s.toReset.rsp = ⟨false, 0, 0⟩ := rfl
@[simp] theorem State.toReset_faultCode : s.toReset.faultCode = 0 := rfl
@[simp] theorem State.toReset_faultCmd : s.toReset.faultCmd = 0 := rfl
@[simp] theorem State.toReset_inputs : s.toReset.inputs = s.inputs := rfl
@[simp] theorem State.toReset_cycle : s.toReset.cycle = s.cycle := rfl

end toReset

section merge

variable (tb : TimeBaseOut) (sd : SignalRegs)

@[simp] theorem merge_cfg : (merge s tb sd c).cfg = c.cfg := rfl
@[simp] theorem merge_fb : (merge s tb sd c).fb = c.fb := rfl
@[simp] theorem merge_uptime : (merge s tb sd c).uptime = tb.uptime := rfl
@[simp] theorem merge_deadline : (merge s tb sd c).deadline = (if tb.wrapped then 0 else c.deadline) := rfl
@[simp] theorem merge_tickPending : (merge s tb sd c).tickPending = tb.tickPending := rfl
@[simp] theorem merge_ctl : (merge s tb sd c).ctl = c.ctl := rfl
@[simp] theorem merge_sd : (merge s tb sd c).sd = (if s.sd.phase = .idle then c.sd else sd) := rfl
@[simp] theorem merge_rsp : (merge s tb sd c).rsp = c.rsp := rfl
@[simp] theorem merge_faultCode : (merge s tb sd c).faultCode = c.faultCode := rfl
@[simp] theorem merge_faultCmd : (merge s tb sd c).faultCmd = c.faultCmd := rfl
@[simp] theorem merge_inputs : (merge s tb sd c).inputs = c.inputs.tail := rfl
@[simp] theorem merge_cycle : (merge s tb sd c).cycle = c.cycle + 1 := rfl

end merge

section resetWith

variable (cfg : Config) (inputs : List Input) (cycle : Nat)

@[simp] theorem State.resetWith_cfg : (State.resetWith cfg inputs cycle).cfg = cfg := rfl
@[simp] theorem State.resetWith_fb : (State.resetWith cfg inputs cycle).fb = [] := rfl
@[simp] theorem State.resetWith_uptime : (State.resetWith cfg inputs cycle).uptime = 0 := rfl
@[simp] theorem State.resetWith_deadline : (State.resetWith cfg inputs cycle).deadline = 0 := rfl
@[simp] theorem State.resetWith_tickPending : (State.resetWith cfg inputs cycle).tickPending = false := rfl
@[simp] theorem State.resetWith_ctl : (State.resetWith cfg inputs cycle).ctl = .ready := rfl
@[simp] theorem State.resetWith_sd : (State.resetWith cfg inputs cycle).sd = SignalRegs.reset := rfl
@[simp] theorem State.resetWith_rsp : (State.resetWith cfg inputs cycle).rsp = ⟨false, 0, 0⟩ := rfl
@[simp] theorem State.resetWith_faultCode : (State.resetWith cfg inputs cycle).faultCode = 0 := rfl
@[simp] theorem State.resetWith_faultCmd : (State.resetWith cfg inputs cycle).faultCmd = 0 := rfl
@[simp] theorem State.resetWith_inputs : (State.resetWith cfg inputs cycle).inputs = inputs := rfl
@[simp] theorem State.resetWith_cycle : (State.resetWith cfg inputs cycle).cycle = cycle := rfl

end resetWith

section signalRegs

@[simp] theorem SignalRegs.reset_phase : SignalRegs.reset.phase = .idle := rfl
@[simp] theorem SignalRegs.reset_led : SignalRegs.reset.led = 0 := rfl
@[simp] theorem SignalRegs.reset_slot : SignalRegs.reset.slot = 0 := rfl
@[simp] theorem SignalRegs.reset_bit : SignalRegs.reset.bit = 0 := rfl
@[simp] theorem SignalRegs.reset_byte : SignalRegs.reset.byte = 0 := rfl
@[simp] theorem SignalRegs.reset_cnt : SignalRegs.reset.cnt = 0 := rfl
@[simp] theorem SignalRegs.reset_dout : SignalRegs.reset.dout = false := rfl

variable (cfg : Config) (led : BitVec 16) (slot : BitVec 2) (bit : BitVec 3) (byte : Byte)

@[simp] theorem beginBit_phase : (beginBit cfg led slot bit byte).phase = .high := rfl
@[simp] theorem beginBit_led : (beginBit cfg led slot bit byte).led = led := rfl
@[simp] theorem beginBit_slot : (beginBit cfg led slot bit byte).slot = slot := rfl
@[simp] theorem beginBit_bit : (beginBit cfg led slot bit byte).bit = bit := rfl
@[simp] theorem beginBit_byte : (beginBit cfg led slot bit byte).byte = byte := rfl
@[simp] theorem beginBit_cnt : (beginBit cfg led slot bit byte).cnt = cfg.th (byte.getLsbD bit.toNat) - 1 := rfl
@[simp] theorem beginBit_dout : (beginBit cfg led slot bit byte).dout = true := rfl

end signalRegs

end Sys2Proof.Machine
end

