-- ==== Sys2Proof/Laws/TimeBase.lean ====
section
/-! SUPPORT. Everything TimeBase can do in a step (40_timebase.md R72, R74, R77, R78). -/

namespace Sys2Proof.Machine

/-- A W-bit value's successor, where it does not wrap. -/
theorem toNat_succ_of_fits {uptimeW : Nat} {u : Word} (hw : uptimeW ≤ 32) (hu : u.toNat < 2 ^ uptimeW)
    (hne : u.toNat ≠ 2 ^ uptimeW - 1) : (u + 1).toNat = u.toNat + 1 := by
  have hp : 2 ^ uptimeW ≤ 2 ^ 32 := Nat.pow_le_pow_right (by decide) hw
  rw [BitVec.toNat_add]
  have : (1 : Word).toNat = 1 := rfl
  rw [this, Nat.mod_eq_of_lt (by omega)]

/-- TickApply: the wrap, or one more (40_timebase.md R74). -/
theorem tickApply_cases {uptimeW : Nat} {u : Word} (hw : uptimeW ≤ 32) (hu : u.toNat < 2 ^ uptimeW) :
    (u.toNat = 2 ^ uptimeW - 1 ∧ tickApply uptimeW u = (0, true)) ∨
      (u.toNat + 1 < 2 ^ uptimeW ∧ (u + 1).toNat = u.toNat + 1 ∧ tickApply uptimeW u = (u + 1, false)) := by
  unfold tickApply
  split
  · exact .inl ⟨‹_›, rfl⟩
  · rename_i hne
    exact .inr ⟨by omega, toNat_succ_of_fits hw hu hne, rfl⟩

/-- TimeBaseStep: inside the masked window a tick is held, outside it at most one tick is applied (40_timebase.md R72). -/
theorem timeBaseStep_cases (s : State) (tick masked : Bool) :
    (masked = true ∧ timeBaseStep s tick masked = ⟨s.uptime, s.tickPending || tick, false⟩) ∨
      (masked = false ∧ (s.tickPending || tick) = true ∧
        timeBaseStep s tick masked =
          ⟨(tickApply s.cfg.uptimeW s.uptime).1, s.tickPending && tick, (tickApply s.cfg.uptimeW s.uptime).2⟩) ∨
      (masked = false ∧ s.tickPending = false ∧ tick = false ∧
        timeBaseStep s tick masked = ⟨s.uptime, false, false⟩) := by
  unfold timeBaseStep
  cases masked <;> cases hp : s.tickPending <;> cases tick <;> simp

/-- The uptime TimeBaseStep gives fits its UPTIME_W bits. -/
theorem timeBaseStep_fits {s : State} (hw : s.cfg.uptimeW ≤ 32) (hu : s.uptime.toNat < 2 ^ s.cfg.uptimeW)
    (tick masked : Bool) : (timeBaseStep s tick masked).uptime.toNat < 2 ^ s.cfg.uptimeW := by
  have hpos : 0 < 2 ^ s.cfg.uptimeW := Nat.two_pow_pos _
  rcases timeBaseStep_cases s tick masked with ⟨-, h⟩ | ⟨-, -, h⟩ | ⟨-, -, -, h⟩ <;> rw [h]
  · exact hu
  · rcases tickApply_cases hw hu with ⟨-, ha⟩ | ⟨hlt, hs, ha⟩ <;> rw [ha]
    · exact hpos
    · exact hs ▸ hlt
  · exact hu

/-- The sum of DELAY is W bits wide (40_timebase.md R77). -/
theorem addW_toNat {uptimeW : Nat} (hw : uptimeW ≤ 32) (a b : Word) :
    (addW uptimeW a b).toNat = (a.toNat + b.toNat) % 2 ^ uptimeW := by
  have hp : 2 ^ uptimeW ≤ 2 ^ 32 := Nat.pow_le_pow_right (by decide) hw
  have hlt : (a.toNat + b.toNat) % 2 ^ uptimeW < 2 ^ uptimeW := Nat.mod_lt _ (Nat.two_pow_pos _)
  rw [addW, BitVec.toNat_ofNat, Nat.mod_eq_of_lt (by omega)]

/-- A waiting DELAY completes or waits on (40_timebase.md R78). -/
theorem delayStep_cases (s : State) :
    (s.deadline.toNat ≤ s.uptime.toNat ∧ delayStep s = { s.respond statusOk 0 with ctl := .ready }) ∨
      (s.uptime.toNat < s.deadline.toNat ∧ delayStep s = s.noResponse) := by
  unfold delayStep
  split
  · exact .inl ⟨‹_›, rfl⟩
  · exact .inr ⟨by omega, rfl⟩

end Sys2Proof.Machine
end

