-- ==== Sys2Proof/Laws/Step.lean ====
section
/-! SUPPORT. Everything one step can do (10_state.md R43), and the environment's inputs along a run. -/

namespace Sys2Proof.Machine

/-- A step that answers a next state is a reset, or the three units' step merged (10_state.md R43). -/
theorem step_cases {s t : State} (h : step s = .next t) :
    s.cfg.legal = true ∧
      ((s.input.rst = true ∧ t = s.toReset.advanceEnv) ∨
        (s.input.rst = false ∧ ∃ o c, sdStep s s.input.preempt = .ok o ∧
          controlStep s s.input.cmdValid s.input.cmdWord o.done = .next c ∧
          t = merge s (timeBaseStep s s.input.tick s.masked) o.regs c)) := by
  unfold step at h
  split at h
  · rename_i hl
    refine ⟨hl, ?_⟩
    unfold cycleStep at h
    split at h
    · cases h; exact .inl ⟨‹_›, rfl⟩
    · rename_i hr
      unfold unitsStep at h
      split at h
      · cases h
      · rename_i o ho
        split at h
        · rename_i c hc
          cases h
          exact .inr ⟨by simpa using hr, o, c, ho, hc, rfl⟩
        · cases h
        · cases h
  · cases h

/-- The units' step, from its parts. -/
theorem step_of_units {s c : State} {o : SdOut} (hl : s.cfg.legal = true) (hr : s.input.rst = false)
    (ho : sdStep s s.input.preempt = .ok o)
    (hc : controlStep s s.input.cmdValid s.input.cmdWord o.done = .next c) :
    step s = .next (merge s (timeBaseStep s s.input.tick s.masked) o.regs c) := by
  simp [step, hl, cycleStep, hr, unitsStep, ho, hc]

/-- A reset step (70_reset_and_hazards.md R138). -/
theorem step_of_reset {s : State} (hl : s.cfg.legal = true) (hr : s.input.rst = true) :
    step s = .next s.toReset.advanceEnv := by
  simp [step, hl, cycleStep, hr]

/-- What ControlStep leaves of the environment and the build. -/
theorem controlStep_keeps_env {s c : State} {v : Bool} {w : CmdWord} {done : Bool}
    (h : controlStep s v w done = .next c) : c.cfg = s.cfg ∧ c.inputs = s.inputs ∧ c.cycle = s.cycle := by
  rcases controlStep_cases h with ⟨-, -, ha⟩ | ⟨-, -, rfl⟩ | ⟨-, rfl⟩ | ⟨-, rfl⟩ | ⟨-, rfl⟩
  · rcases accept_cases ha with ⟨i, -, he⟩ | ⟨e, -, rfl⟩
    · have := exec_keeps_timeBase he
      exact ⟨this.1, this.2.2.2.1, this.2.2.2.2⟩
    · exact ⟨rfl, rfl, rfl⟩
  · exact ⟨rfl, rfl, rfl⟩
  · rcases txStep_cases s done with ⟨-, h⟩ | ⟨-, h⟩ <;> rw [h] <;> exact ⟨rfl, rfl, rfl⟩
  · rcases delayStep_cases s with ⟨-, h⟩ | ⟨-, h⟩ <;> rw [h] <;> exact ⟨rfl, rfl, rfl⟩
  · exact ⟨rfl, rfl, rfl⟩

/-- Every step keeps the build (00_scope.md R9) and moves the environment one step on. -/
theorem step_env {s t : State} (h : step s = .next t) :
    t.cfg = s.cfg ∧ t.inputs = s.inputs.tail ∧ t.cycle = s.cycle + 1 := by
  obtain ⟨-, ⟨-, rfl⟩ | ⟨-, o, c, -, hc, rfl⟩⟩ := step_cases h
  · exact ⟨rfl, rfl, rfl⟩
  · obtain ⟨h1, h2, h3⟩ := controlStep_keeps_env hc
    exact ⟨h1, by simp [h2], by simp [h3]⟩

/-- The input `k` steps after a step is the input `k + 1` steps from before it. -/
theorem step_inputAt {s t : State} (h : step s = .next t) (k : Nat) : t.inputAt k = s.inputAt (k + 1) := by
  obtain ⟨-, hi, hc⟩ := step_env h
  unfold State.inputAt
  rw [hi, hc, List.getElem?_tail, show s.cycle + 1 + k = s.cycle + (k + 1) by omega]

end Sys2Proof.Machine
end

