-- ==== Sys2Proof/Laws/Run.lean ====
section
/-! SUPPORT. Runs: their inputs, their last step, their one end, and the build they keep. -/

namespace Sys2Proof.Machine

theorem stepsTo_zero {s t : State} : StepsTo 0 s t ↔ t = s := Iff.rfl

theorem stepsTo_succ {k : Nat} {s t : State} : StepsTo (k + 1) s t ↔ ∃ u, step s = .next u ∧ StepsTo k u t := Iff.rfl

/-- A run and one step more. -/
theorem stepsTo_snoc {k : Nat} {s t v : State} (h : StepsTo k s t) (hv : step t = .next v) : StepsTo (k + 1) s v := by
  induction k generalizing s with
  | zero => rw [stepsTo_zero] at h; subst h; exact ⟨v, hv, rfl⟩
  | succ k ih => obtain ⟨u, hu, ht⟩ := h; exact ⟨u, hu, ih ht⟩

/-- The last step of a run. -/
theorem stepsTo_last {k : Nat} {s v : State} (h : StepsTo (k + 1) s v) : ∃ t, StepsTo k s t ∧ step t = .next v := by
  induction k generalizing s with
  | zero => obtain ⟨u, hu, hv⟩ := h; rw [stepsTo_zero] at hv; subst hv; exact ⟨s, rfl, hu⟩
  | succ k ih =>
    obtain ⟨u, hu, hv⟩ := h
    obtain ⟨t, ht, hs⟩ := ih hv
    exact ⟨t, ⟨u, hu, ht⟩, hs⟩

/-- A run of a given length has one end. -/
theorem stepsTo_unique {k : Nat} {s t t' : State} (h : StepsTo k s t) (h' : StepsTo k s t') : t = t' := by
  induction k generalizing s with
  | zero => exact h.trans h'.symm
  | succ k ih =>
    obtain ⟨u, hu, ht⟩ := h
    obtain ⟨u', hu', ht'⟩ := h'
    rw [hu] at hu'
    cases hu'
    exact ih ht ht'

/-- The input `j` steps after a run of `k` steps is the input `k + j` steps from its start. -/
theorem stepsTo_inputAt {k : Nat} {s t : State} (h : StepsTo k s t) (j : Nat) : t.inputAt j = s.inputAt (k + j) := by
  induction k generalizing s with
  | zero => rw [stepsTo_zero] at h; subst h; rw [Nat.zero_add]
  | succ k ih =>
    obtain ⟨u, hu, ht⟩ := h
    rw [ih ht, step_inputAt hu]
    congr 1
    omega

/-- A run keeps the build (00_scope.md R9). -/
theorem stepsTo_cfg {k : Nat} {s t : State} (h : StepsTo k s t) : t.cfg = s.cfg := by
  induction k generalizing s with
  | zero => rw [stepsTo_zero] at h; subst h; rfl
  | succ k ih => obtain ⟨u, hu, ht⟩ := h; rw [ih ht, (step_env hu).1]

end Sys2Proof.Machine
end

