-- ==== Sys2Proof/Tests/Slice0.lean ====
section
/-! SUPPORT. Tests on values the spec gives (95_test_vectors.md and the rules' examples), the checks' refusals, and for
every statement with hypotheses a state and operands that meet them. -/

namespace Sys2Proof.Tests

open Sys2Proof Sys2Proof.Machine

/-! ### Builders -/

/-- An environment that offers a word for one cycle. -/
def offers (w : CmdWord) : Input := { Input.quiet with cmdValid := true, cmdWord := w }

/-- An environment that delivers a tick for one cycle. -/
def ticks : Input := { Input.quiet with tick := true }

/-- The defaults with another strip length, or another timer width. -/
def strip (n : Nat) : Config := { Config.default with n := n }
def timer (uptimeW : Nat) : Config := { Config.default with uptimeW := uptimeW }

/-- One LED at the shortest legal timing: a frame of zeros lasts 65 cycles. -/
def tiny : Config := { Config.default with n := 1, t0h := 1, t0l := 1, t1h := 2, t1l := 1, tres := 1 }

/-- The reset state with the word offered in its first cycle, and three quiet cycles after it. -/
def offering (cfg : Config) (w : CmdWord) : State :=
  State.resetWith cfg [offers w, Input.quiet, Input.quiet, Input.quiet] 0

/-- The reset state with the word offered together with a tick. -/
def offeringWithTick (cfg : Config) (w : CmdWord) : State :=
  State.resetWith cfg [{ offers w with tick := true }, Input.quiet, Input.quiet] 0

/-- A block that waits in BUSY_DELAY. -/
def waiting (uptime deadline : Word) (inputs : List Input) : State :=
  { State.resetWith Config.default inputs 0 with ctl := .busyDelay, uptime := uptime, deadline := deadline }

/-- A block halted by FB-4. -/
def haltedState (inputs : List Input) : State :=
  { State.resetWith Config.default inputs 0 with
    ctl := .halted, faultCode := 1, faultCmd := 0x1000000800000000, rsp := ⟨false, 1, 0⟩ }

/-- A block that sends a frame of zeros, at the given phase, cursor and count. -/
def sending (cfg : Config) (phase : Phase) (led : BitVec 16) (slot : BitVec 2) (bit : BitVec 3) (cnt : Nat)
    (inputs : List Input) : State :=
  { State.resetWith cfg inputs 0 with
    ctl := .busyTx, sd := ⟨phase, led, slot, bit, 0, cnt, decide (phase = .high)⟩ }

/-- What a field reads after one step, if there is a next state. -/
def after {α : Type} (s : State) (f : State → α) : Option α :=
  match step s with
  | .next t => some (f t)
  | _ => none

theorem next_of_after {s : State} (h : (after s fun _ => ()) = some ()) : ∃ t, step s = .next t := by
  unfold after at h
  split at h
  · exact ⟨_, ‹_›⟩
  · cases h

/-! ### Decoding: each word written bit by bit from 30_encoding.md R64 -/

theorem test_decode_nop :
    decode 32 0b0000000000000000000000000000000000000000000000000000000000000000 = .ok .nop := by decide

theorem test_decode_fbSet :
    decode 32 0b0001000000000000000000000000011111001000000000000000000000000000 = .ok (.fbSet 7 0xC8000000) := by
  decide

theorem test_decode_fbGet :
    decode 32 0b0010000000000000000000000000001100000000000000000000000000000000 = .ok (.fbGet 3) := by decide

theorem test_decode_tx :
    decode 32 0b0011000000000000000000000000000000000000000000000000000000000000 = .ok .tx := by decide

theorem test_decode_delay :
    decode 32 0b0100000000000000000000000000000000000000000000000000000000000011 = .ok (.delay 3) := by decide

theorem test_decode_rdUptime :
    decode 32 0b0101000000000000000000000000000000000000000000000000000000000000 = .ok .rdUptime := by decide

theorem test_decode_rdStatus :
    decode 32 0b0110000000000000000000000000000000000000000000000000000000000000 = .ok .rdStatus := by decide

/-- ENC-2, ENC-3, ENC-5 to ENC-12 of 95_test_vectors.md. -/
theorem test_decode_faults :
    decode 32 0x0000000000000001 = .error .reservedBits ∧ decode 32 0x7000000000000001 = .error .illegalOpcode ∧
    decode 32 0x0010000000000000 = .error .reservedBits ∧ decode 32 0x1001000000000000 = .error .reservedBits ∧
    decode 32 0x2000000300000001 = .error .reservedBits ∧ decode 32 0x3000000100000000 = .error .reservedBits ∧
    decode 32 0x4000000100000005 = .error .reservedBits ∧ decode 32 0x5000000000000001 = .error .reservedBits ∧
    decode 32 0x6000000080000000 = .error .reservedBits ∧ decode 4 0x4000000000000010 = .error .reservedBits := by
  decide

/-- The words of 30_encoding.md R69 and program P2. -/
theorem test_encode :
    encode (.fbSet 7 0xC8000000) = 0x10000007C8000000 ∧ encode (.fbGet 7) = 0x2000000700000000 ∧
    encode .tx = 0x3000000000000000 ∧ encode (.delay 3) = 0x4000000000000003 := by decide

/-- No word has the form of two rows of the map (30_encoding.md R64). -/
theorem test_rows_do_not_overlap :
    opcodeTable.Pairwise fun a b => (a.pattern ^^^ b.pattern) &&& (a.mask &&& b.mask) ≠ 0 := by decide

theorem test_decodeTableWord :
    decodeTableWord 64 0x10000007C8000000 = some (.fbSet 7 0xC8000000) ∧ decodeTableWord 64 0xF000000000000000 = none := by
  decide

/-! ### The checks refuse what is ill formed -/

/-- 95_test_vectors.md ENC-12: DELAY 16 at UPTIME_W = 4. -/
theorem test_wf_delay : Instr.wf 4 (.delay 16) = false ∧ Instr.wf 4 (.delay 15) = true := by decide

/-- 00_scope.md R9 and 42_signal_driver.md R94, one broken parameter at a time. -/
theorem test_legal_refuses :
    (strip 0).legal = false ∧ (strip 65536).legal = false ∧ (timer 0).legal = false ∧ (timer 33).legal = false ∧
    Config.legal { Config.default with fClk := 0 } = false ∧ Config.legal { Config.default with tickCyc := 0 } = false ∧
    Config.legal { Config.default with t0h := 0 } = false ∧ Config.legal { Config.default with t0l := 0 } = false ∧
    Config.legal { Config.default with t1l := 0 } = false ∧ Config.legal { Config.default with tres := 0 } = false ∧
    Config.legal { Config.default with t1h := 6 } = false ∧
    Config.legal { Config.default with order := ⟨.g, .g, .b, .w⟩ } = false ∧
    Config.legal { Config.default with cntW := 10 } = false ∧ Config.legal { Config.default with cntW := 11 } = true := by
  decide

/-- 42_signal_driver.md R93: the defaults are `round(t · F_CLK)` of the nominal times. -/
theorem test_default_cycles :
    Config.default.cyclesOf 400 = Config.default.t0h ∧ Config.default.cyclesOf 850 = Config.default.t0l ∧
    Config.default.cyclesOf 800 = Config.default.t1h ∧ Config.default.cyclesOf 450 = Config.default.t1l ∧
    Config.default.cyclesOf 80000 = Config.default.tres ∧ Config.default.tickCyc = Config.default.fClk / 1000 := by decide

/-! ### One step of each command -/

/-- PT-4. -/
theorem test_nop : after (offering (strip 8) 0) (fun t => (t.rsp, t.ctl)) = some (⟨true, 0, 0⟩, .ready) := by decide

/-- ENC-2. -/
theorem test_nop_reserved :
    after (offering (strip 8) 1) (fun t => (t.rsp, t.ctl, t.faultCode, t.faultCmd)) =
      some (⟨true, 3, 0⟩, .halted, 3, 1) := by decide

/-- FB-1. -/
theorem test_fbSet :
    after (offering (strip 8) 0x10000007FFFFFFFF) (fun t => (t.rsp, t.fb.read 7, t.fb.read 6)) =
      some (⟨true, 0, 0⟩, 0xFFFFFFFF, 0) := by decide

/-- FB-4. -/
theorem test_fbSet_past_end :
    after (offering (strip 8) 0x1000000800000000) (fun t => (t.rsp, t.ctl, t.faultCode, t.faultCmd, t.fb.length)) =
      some (⟨true, 1, 0⟩, .halted, 1, 0x1000000800000000, 0) := by decide

/-- FB-2, its second step. -/
theorem test_fbGet :
    after { offering (strip 8) 0x2000000000000000 with fb := [(0, 0x11223344)] } (fun t => t.rsp) =
      some ⟨true, 0, 0x11223344⟩ := by decide

/-- FB-5. -/
theorem test_fbGet_past_end :
    after (offering (strip 8) 0x2000FFFF00000000) (fun t => (t.rsp.status, t.ctl)) = some (1, .halted) := by decide

/-- FB-7 and 42_signal_driver.md R98: the first byte is the G channel, 0x22, whose first bit is 0. -/
theorem test_tx :
    after { offering (strip 1) 0x3000000000000000 with fb := [(0, 0x11223344)] }
      (fun t => (t.ctl, t.sd, t.rsp.valid)) = some (.busyTx, ⟨.high, 0, 0, 7, 0x22, 5, true⟩, false) := by decide

/-- SD-7: a first bit of 1 is high for 13 cycles. -/
theorem test_tx_one_bit :
    after { offering (strip 1) 0x3000000000000000 with fb := [(0, 0xFFFFFFFF)] } (fun t => (t.sd.cnt, t.sd.dout)) =
      some (12, true) := by decide

/-- TB-6. -/
theorem test_delay :
    after { offering (strip 8) 0x4000000000000003 with uptime := 5 } (fun t => (t.deadline, t.ctl, t.rsp.valid)) =
      some (8, .busyDelay, false) := by decide

/-- TB-8: the wrap's deadline wins over the acceptance's. -/
theorem test_delay_wrap :
    after { offeringWithTick (timer 4) 0x4000000000000003 with uptime := 15 } (fun t => (t.deadline, t.uptime, t.ctl)) =
      some (0, 0, .busyDelay) := by decide

/-- TB-11. -/
theorem test_rdUptime :
    after { offeringWithTick (strip 8) 0x5000000000000000 with uptime := 0x1234 } (fun t => (t.rsp, t.uptime)) =
      some (⟨true, 0, 0x1234⟩, 0x1235) := by decide

/-- PT-1. -/
theorem test_rdStatus :
    after (offering (strip 8) 0x6000000000000000) (fun t => t.rsp) = some ⟨true, 0, 0x00082008⟩ := by decide

/-- PT-2. -/
theorem test_rdStatus_parameters :
    after (offering { strip 60 with uptimeW := 16, txMasksIrq := false } 0x6000000000000000) (fun t => t.rsp.data) =
      some 0x003C1000 := by decide

/-! ### One step of the units -/

/-- TB-3 and TB-4: the wrap clears the deadline, the tick before it does not. -/
theorem test_tick_wrap :
    after { State.resetWith (timer 4) [ticks] 0 with uptime := 15, deadline := 9 } (fun t => (t.uptime, t.deadline)) =
        some (0, 0) ∧
      after { State.resetWith (timer 4) [ticks] 0 with uptime := 14, deadline := 9 } (fun t => (t.uptime, t.deadline)) =
        some (15, 9) := by decide

/-- TK-3: the tick of the completing step is held. -/
theorem test_tick_at_completion :
    after (sending (strip 8) .gap 7 3 0 0 [ticks]) (fun t => (t.tickPending, t.uptime, t.ctl, t.rsp)) =
      some (true, 0, .ready, ⟨true, 0, 0⟩) := by decide

/-- TK-4, step 16 001: a held tick is applied while a new one is held. -/
theorem test_held_tick_delivered :
    after { offeringWithTick (strip 23) 0x3000000000000000 with tickPending := true } (fun t => (t.uptime, t.tickPending)) =
      some (1, true) := by decide

/-- TB-5, its second step. -/
theorem test_delay_completes :
    after (waiting 5 5 [Input.quiet]) (fun t => (t.ctl, t.rsp)) = some (.ready, ⟨true, 0, 0⟩) := by decide

/-- PT-6: a halted block accepts nothing. -/
theorem test_halted :
    after (haltedState [offers 0]) (fun t => (t.ctl, t.rsp.valid, t.rsp.status)) = some (.halted, false, 1) := by decide

/-- 40_timebase.md R74, 60_exceptions.md R125: ticks are counted in HALTED, and the wrap's clear comes with them (log 9). -/
theorem test_halted_wrap :
    after { haltedState [ticks] with uptime := 0xFFFFFFFF, deadline := 9 } (fun t => (t.uptime, t.deadline)) =
      some (0, 0) := by decide

/-- RS-3: reset overrides a tick and a command. -/
theorem test_reset :
    after (haltedState [{ offers 0 with rst := true, tick := true }]) (fun t => { t with inputs := [], cycle := 0 }) =
      some State.reset := by decide

/-- 42_signal_driver.md R107, cycles 6 to 7 and 20 to 21 of the trace: the falling edge, and the next rising edge. -/
theorem test_edges :
    after (sending (strip 1) .high 0 0 7 0 [Input.quiet]) (fun t => t.sd) = some ⟨.low, 0, 0, 7, 0, 13, false⟩ ∧
      after (sending (strip 1) .low 0 0 7 0 [Input.quiet]) (fun t => t.sd) = some ⟨.high, 0, 0, 6, 0, 5, true⟩ := by
  decide

/-- 42_signal_driver.md R107: the next channel's byte, W = 0x80, is loaded at bit 24 and is high for 13 cycles; the gap
begins after bit 31. -/
theorem test_byte_boundary_and_gap :
    after { sending (strip 1) .low 0 2 0 0 [Input.quiet] with fb := [(0, 0x80)] } (fun t => t.sd) =
        some ⟨.high, 0, 3, 7, 0x80, 12, true⟩ ∧
      after (sending (strip 1) .low 0 3 0 0 [Input.quiet]) (fun t => t.sd) = some ⟨.gap, 0, 3, 0, 0, 1279, false⟩ := by
  decide

/-- ST-1 and ST-6: a preempted step freezes an unmasked frame and not a masked one. -/
theorem test_stall :
    after (sending { strip 1 with txMasksIrq := false } .high 0 0 7 5 [{ Input.quiet with preempt := true }])
        (fun t => t.sd.cnt) = some 5 ∧
      after (sending (strip 1) .high 0 0 7 5 [{ Input.quiet with preempt := true }]) (fun t => t.sd.cnt) = some 4 := by
  decide

/-- SD-1 to SD-3, and the lengths of SD-10. -/
theorem test_wave :
    bitWave Config.default false = List.replicate 6 true ++ List.replicate 14 false ∧
    bitWave Config.default true = List.replicate 13 true ++ List.replicate 7 false ∧
    frameLength (strip 1) [] = 1920 := by decide

/-- SD-9: unequal bit periods. -/
theorem test_frameLength_unequal :
    frameLength { strip 2 with t0h := 2, t0l := 5, t1h := 4, t1l := 2, tres := 10 } [(0, 1)] = 457 := by decide

/-- FB-7, FB-8: wire bytes under two orders. -/
theorem test_wireByte :
    wireByte Config.default.order 0x11223344 0 = 0x22 ∧ wireByte Config.default.order 0x11223344 1 = 0x11 ∧
    wireByte Config.default.order 0x11223344 2 = 0x33 ∧ wireByte Config.default.order 0x11223344 3 = 0x44 ∧
    wireByte ⟨.r, .g, .b, .w⟩ 0x11223344 0 = 0x11 := by decide

/-- ST-2 and ST-3: a high run of 10 reads as 1, and a low run of 15 ends the frame. -/
theorem test_receiver :
    receivedBit Config.default 9 = false ∧ receivedBit Config.default 10 = true ∧
    receive Config.default (List.replicate 6 true ++ List.replicate 15 false ++ List.replicate 6 true) = [false] := by
  decide

/-- 30_encoding.md R69, program P2 and a refused operand. -/
theorem test_assembler :
    AsmLine.word 32 (.fbSetChannels 7 200 0 0 0) = some 0x10000007C8000000 ∧
    AsmLine.word 32 (.fbSetPacked 3 0x00FF0000) = some 0x1000000300FF0000 ∧
    AsmLine.word 32 (.fbSetChannels 7 256 0 0 0) = none ∧ AsmLine.word 4 (.delay 16) = none ∧
    AsmLine.word 32 (.fbGet 65536) = none := by decide

/-- 30_encoding.md R69: the text of two of P2's lines. -/
theorem test_assembler_text :
    assembleProgram 32 ["FB_SET 7, 200, 0, 0, 0    ; LED 7".toList, "; a comment".toList, "TX".toList] =
      some [0x10000007C8000000, 0x3000000000000000] := by decide

/-- 30_encoding.md R70. -/
theorem test_pseudo :
    Pseudo.expand 2 0 .startDark = [.fbSet 0 0, .fbSet 1 0, .tx] ∧
    Pseudo.expand 2 0x11223344 (.fbSetCh 1 .g 0xFF) = [.fbGet 1, .fbSet 1 0x11FF3344] := by decide

/-- White space around an operand is no part of it, and a number that holds some is refused (log 16). -/
theorem test_assemble_spaces :
    assembleProgram 32 [" FB_GET  12 ".toList] = some [0x2000000C00000000] ∧
      assembleProgram 32 ["FB_GET 1 2".toList] = none := by decide

/-- The first step after reset runs a placed word. -/
theorem test_withFetchWord :
    after (State.reset.withFetchWord 64 0x4000000000000003) (fun t => (t.deadline, t.ctl)) = some (3, .busyDelay) := by
  decide

/-- 10_state.md R24, R25: the register values of the states. -/
theorem test_codes : Ctl.code .halted = 3 ∧ Phase.code .gap = 3 := by decide

end Sys2Proof.Tests
end

