-- ==== Sys2Proof/Tests/Witnesses.lean ====
section
/-! SUPPORT. For every statement with hypotheses, a state and operands that meet all of them together; where a statement
has clauses over one input, one for each clause, at the boundary of its range. -/

namespace Sys2Proof.Tests

open Sys2Proof Sys2Proof.Machine

/-! ### States with the invariants -/

theorem reset_inv : State.reset.Inv := by constructor <;> decide

theorem halted_inv : (haltedState [offers 0, ticks]).Inv := by constructor <;> decide

theorem waiting_inv : (waiting 5 8 [offers 0, ticks]).Inv := by constructor <;> decide

theorem waiting_done_inv : (waiting 5 5 [offers 0]).Inv := by constructor <;> decide

theorem waiting_top_inv : (waiting 0xFFFFFFFF 0xFFFFFFFF [ticks]).Inv := by constructor <;> decide

/-- The next step of a concrete state. -/
theorem steps (s : State) (h : (after s fun _ => ()) = some ()) : ∃ t, step s = .next t := next_of_after h

/-- A one-step run. -/
theorem stepsTo_one {s : State} (h : (after s fun _ => ()) = some ()) : ∃ t, StepsTo 1 s t := by
  obtain ⟨t, ht⟩ := next_of_after h
  exact ⟨t, t, ht, rfl⟩

/-- An offered word is accepted from reset. -/
theorem offering_accepts {cfg : Config} (h : cfg.legal = true) (w : CmdWord) : (offering cfg w).Accepts w :=
  ⟨h, rfl, rfl, rfl, rfl, rfl⟩

theorem offering_inv {cfg : Config} (h : cfg.legal = true) (w : CmdWord) : (offering cfg w).Inv := by
  constructor <;> simp [offering, State.resetWith, SignalRegs.reset, FrameBuffer.wf, FrameBuffer.wfFrom, h]

/-! ### Encoding -/

theorem witness_DecodeOfEncode : Instr.wf 4 (.delay 15) = true ∧ Instr.wf 32 (.fbSet 0xFFFF 0xFFFFFFFF) = true := by
  decide

theorem witness_DecodedWord : decode 32 0x2000FFFF00000000 = .ok (.fbGet 0xFFFF) := by decide

theorem witness_AssembledLine : AsmLine.word 32 (.fbGet 65535) = some 0x2000FFFF00000000 := by decide

/-! ### A step runs the decoded command -/

theorem witness_StepRuns :
    (offering (strip 8) 0x4000000000000003).Accepts 0x4000000000000003 ∧
      decode (strip 8).uptimeW 0x4000000000000003 = .ok (.delay 3) ∧
      ∃ c, exec (.delay 3) (offering (strip 8) 0x4000000000000003) = .next c :=
  ⟨offering_accepts (by decide) _, by decide, _, rfl⟩

/-- A block without LEDs, which no build may be: TX stops there. -/
theorem witness_StepRuns_fault :
    exec .tx (State.resetWith { Config.default with n := 0 } [] 0) = .fault .frameReadOutOfRange := rfl

/-- An illegal opcode, a reserved bit, and the first index past N of both commands. -/
theorem witness_FaultingWord :
    (offering (strip 8) 0x7000000000000000).Accepts 0x7000000000000000 ∧
      decode (strip 8).uptimeW 0x7000000000000000 = .error .illegalOpcode ∧
      decode (strip 8).uptimeW 0x0000000000000001 = .error .reservedBits ∧
      decode (strip 8).uptimeW 0x1000000800000000 = .ok (.fbSet 8 0) ∧
      decode (strip 8).uptimeW 0x2000000800000000 = .ok (.fbGet 8) ∧ (strip 8).n ≤ (8 : Index).toNat :=
  ⟨offering_accepts (by decide) _, by decide, by decide, by decide, by decide, by decide⟩

/-- The last legal opcode and the first illegal one, a reserved bit, the first index past N and the last below it. -/
theorem witness_FirstFailingCheck :
    ∀ w ∈ [0x7000000000000000, 0x6000000000000000, 0x6000000000000001, 0x1000000800000000, 0x1000000700000000],
      (offering (strip 8) w).Inv ∧ (offering (strip 8) w).Accepts w :=
  fun w _ => ⟨offering_inv (by decide) w, offering_accepts (by decide) w⟩

/-! ### The commands -/

theorem witness_Rejected :
    opField 0x0000000000000001 = 0 ∧ BitVec.extractLsb' 0 60 (0x0000000000000001 : CmdWord) ≠ 0 ∧
    opField 0x1001000000000000 = 1 ∧ rsvField 0x1001000000000000 ≠ 0 ∧
    opField 0x2000000000000001 = 2 ∧ dataField 0x2000000000000001 ≠ 0 ∧
    opField 0x2800000000000000 = 2 ∧ rsvField 0x2800000000000000 ≠ 0 ∧
    opField 0x3000000000000001 = 3 ∧ BitVec.extractLsb' 0 60 (0x3000000000000001 : CmdWord) ≠ 0 ∧
    opField 0x4000000100000000 = 4 ∧ idxField 0x4000000100000000 ≠ 0 ∧
    opField 0x4001000000000000 = 4 ∧ rsvField 0x4001000000000000 ≠ 0 ∧
    opField 0x4000000000000010 = 4 ∧ 2 ^ 4 ≤ (dataField 0x4000000000000010).toNat ∧
    opField 0x5000000000000001 = 5 ∧ BitVec.extractLsb' 0 60 (0x5000000000000001 : CmdWord) ≠ 0 ∧
    opField 0x6800000000000000 = 6 ∧ BitVec.extractLsb' 0 60 (0x6800000000000000 : CmdWord) ≠ 0 := by decide

theorem witness_FbSetStores :
    FrameBuffer.wf State.reset.fb State.reset.cfg.n = true ∧ (7 : Index).toNat < State.reset.cfg.n := by decide

theorem witness_FailedFbSet : State.reset.cfg.n ≤ (8 : Index).toNat := by decide

theorem witness_FbGet : (7 : Index).toNat < State.reset.cfg.n ∧ State.reset.cfg.n ≤ (8 : Index).toNat := by decide

theorem witness_Tx : 0 < State.reset.cfg.n := by decide

theorem witness_Delay :
    State.reset.cfg.uptimeW ≤ 32 ∧
      (∃ s : State, s.Inv ∧ s.Accepts 0x4000000000000003 ∧
        decode s.cfg.uptimeW 0x4000000000000003 = .ok (.delay 3) ∧ s.input.tick = true ∧
        s.uptime.toNat = 2 ^ s.cfg.uptimeW - 1) :=
  ⟨by decide, { offeringWithTick (timer 4) 0x4000000000000003 with uptime := 15 },
    by constructor <;> decide, ⟨by decide, rfl, rfl, rfl, rfl, rfl⟩, by decide, rfl, by decide⟩

theorem witness_RdUptime :
    ∃ s : State, s.Accepts 0x5000000000000000 ∧ decode s.cfg.uptimeW 0x5000000000000000 = .ok .rdUptime ∧
      s.input.tick = true ∧ s.uptime.toNat + 1 < 2 ^ s.cfg.uptimeW :=
  ⟨offeringWithTick (timer 4) 0x5000000000000000, ⟨by decide, rfl, rfl, rfl, rfl, rfl⟩, by decide, rfl, by decide⟩

theorem witness_RdStatus :
    State.reset.cfg.legal = true ∧ State.reset.Inv ∧ State.reset.ctl = .ready ∧
      ∃ t, exec .rdStatus State.reset = .next t :=
  ⟨by decide, reset_inv, rfl, _, rfl⟩

/-! ### Frames -/

theorem witness_Reading :
    (7 : Index).toNat < State.reset.cfg.n ∧ (∃ t, exec .nop State.reset = .next t) ∧
      (∃ t, exec .rdUptime State.reset = .next t) ∧ (∃ t, exec .rdStatus State.reset = .next t) ∧
      ∃ t, exec (.fbGet 7) State.reset = .next t :=
  ⟨by decide, ⟨_, rfl⟩, ⟨_, rfl⟩, ⟨_, rfl⟩, ⟨_, rfl⟩⟩

theorem witness_FbSetFrame :
    (7 : Index).toNat < State.reset.cfg.n ∧ ∃ t, exec (.fbSet 7 0xFF) State.reset = .next t :=
  ⟨by decide, _, rfl⟩

theorem witness_IndexFault :
    State.reset.cfg.n ≤ (8 : Index).toNat ∧ (∃ t, exec (.fbGet 8) State.reset = .next t) ∧
      ∃ t, exec (.fbSet 8 0xFF) State.reset = .next t :=
  ⟨by decide, ⟨_, rfl⟩, ⟨_, rfl⟩⟩

theorem witness_Waiting :
    (∃ t, exec .tx State.reset = .next t) ∧ ∃ t, exec (.delay 0xFFFFFFFF) State.reset = .next t :=
  ⟨⟨_, rfl⟩, ⟨_, rfl⟩⟩

/-! ### The FrameBuffer -/

/-- FB_SET of the last LED, one quiet cycle, FB_GET of it. -/
theorem witness_SetThenGet :
    ∃ (s u v : State) (w w' : CmdWord) (idx : Index) (color : Color) (k : Nat),
      s.Inv ∧ s.Accepts w ∧ decode s.cfg.uptimeW w = .ok (.fbSet idx color) ∧ idx.toNat < s.cfg.n ∧
      step s = .next u ∧ StepsTo k u v ∧ u.NoResetFor k ∧
      (∀ j x, j < k → StepsTo j u x → ¬ (x.ctl = .ready ∧ x.input.cmdValid = true ∧
        ∃ color', decode x.cfg.uptimeW x.input.cmdWord = .ok (.fbSet idx color'))) ∧
      v.Accepts w' ∧ decode v.cfg.uptimeW w' = .ok (.fbGet idx) := by
  refine ⟨State.resetWith (strip 8) [offers 0x10000007FFFFFFFF, Input.quiet, offers 0x2000000700000000] 0,
    { State.resetWith (strip 8) [Input.quiet, offers 0x2000000700000000] 1 with
      fb := [(7, 0xFFFFFFFF)], rsp := ⟨true, 0, 0⟩ },
    { State.resetWith (strip 8) [offers 0x2000000700000000] 2 with fb := [(7, 0xFFFFFFFF)] },
    0x10000007FFFFFFFF, 0x2000000700000000, 7, 0xFFFFFFFF, 1, by constructor <;> decide,
    ⟨by decide, rfl, rfl, rfl, rfl, rfl⟩, by decide, by decide, rfl, ⟨_, rfl, rfl⟩, ?_, ?_,
    ⟨by decide, rfl, rfl, rfl, rfl, rfl⟩, by decide⟩
  · intro j hj
    obtain rfl : j = 0 := by omega
    rfl
  · rintro j x hj hx ⟨-, hv, -⟩
    obtain rfl : j = 0 := by omega
    obtain rfl : x = _ := hx
    exact absurd hv (by decide)

theorem witness_FbSetTwice :
    FrameBuffer.wf State.reset.fb State.reset.cfg.n = true ∧ ∃ t, exec (.fbSet 7 0xFF) State.reset = .next t :=
  ⟨by decide, _, rfl⟩

theorem witness_Canonical :
    FrameBuffer.wf [(0, 1), (7, 2)] 8 = true ∧ FrameBuffer.wf [(0, 1), (7, 0)] 8 = false ∧
      FrameBuffer.wf [(7, 2), (0, 1)] 8 = false ∧ FrameBuffer.wf [(8, 1)] 8 = false := by decide

theorem witness_FbClear : State.Inv { State.reset with fb := [(0, 1), (7, 0xFFFFFFFF)] } := by constructor <;> decide

/-- The last LED set to a Color it did not hold. -/
theorem witness_OnlyFbSetWrites :
    ∃ s t : State, s.Inv ∧ s.input.rst = false ∧ step s = .next t ∧ t.fb ≠ s.fb :=
  ⟨offering (strip 8) 0x10000007FFFFFFFF,
    { State.resetWith (strip 8) [Input.quiet, Input.quiet, Input.quiet] 1 with
      fb := [(7, 0xFFFFFFFF)], rsp := ⟨true, 0, 0⟩ },
    by constructor <;> decide, rfl, rfl, by decide⟩

/-! ### Reset and the invariants -/

theorem witness_ResetState : Config.default.legal = true ∧ (strip 1).legal = true ∧ (strip 65535).legal = true := by
  decide

theorem witness_ResetStep :
    ∃ s s' t : State, s.cfg.legal = true ∧ s.input.rst = true ∧ s'.input.rst = true ∧ s.cfg = s'.cfg ∧
      s.inputs.tail = s'.inputs.tail ∧ s.cycle = s'.cycle ∧ s ≠ s' ∧ step s = .next t :=
  ⟨haltedState [{ offers 0 with rst := true }], waiting 5 8 [{ ticks with rst := true }],
    State.resetWith Config.default [] 1, by decide, rfl, rfl, rfl, rfl, rfl, by decide, rfl⟩

/-- A frame's last low cycle, a waiting delay and a halted block, each with a next state. -/
theorem witness_EveryStep :
    (∃ t, step (waiting 5 8 [offers 0, ticks]) = .next t) ∧
      (∃ t, step (haltedState [offers 0, ticks]) = .next t) ∧
      (sending (strip 8) .low 7 3 0 0 [ticks]).Inv ∧ ∃ t, step (sending (strip 8) .low 7 3 0 0 [ticks]) = .next t :=
  ⟨steps _ (by decide), steps _ (by decide), by constructor <;> decide, steps _ (by decide)⟩

theorem witness_Reachable : (strip 1).legal = true ∧ StepsTo 0 (State.resetWith (strip 1) [] 0) (State.resetWith (strip 1) [] 0) :=
  ⟨by decide, rfl⟩

theorem witness_FrameUnderCursor :
    (sending (strip 8) .low 6 3 0 0 []).Inv ∧ (sending (strip 8) .low 6 3 0 0 []).FrameInv ∧
      (sending (strip 8) .gap 7 3 0 0 [Input.quiet]).Inv ∧ (sending (strip 8) .gap 7 3 0 0 [Input.quiet]).FrameInv ∧
      ∃ t, step (sending (strip 8) .gap 7 3 0 0 [Input.quiet]) = .next t :=
  ⟨by constructor <;> decide, by constructor <;> decide, by constructor <;> decide, by constructor <;> decide,
    steps _ (by decide)⟩

theorem witness_NoStepStops : State.reset.Inv ∧ (sending (strip 8) .low 7 3 0 0 []).Inv :=
  ⟨reset_inv, by constructor <;> decide⟩

theorem witness_IllegalParameters : (State.resetWith (strip 0) [] 0).cfg.legal = false := by decide

/-! ### TimeBase -/

/-- Masked; unmasked at the top value and below it; unmasked without a tick. -/
theorem witness_Tick :
    (∃ s t : State, s.Inv ∧ s.input.rst = false ∧ step s = .next t ∧ s.masked = true ∧ s.input.tick = true) ∧
    (∃ s t : State, s.Inv ∧ s.input.rst = false ∧ step s = .next t ∧ s.masked = false ∧ s.input.tick = true ∧
      s.uptime.toNat = 2 ^ s.cfg.uptimeW - 1) ∧
    (∃ s t : State, s.Inv ∧ s.input.rst = false ∧ step s = .next t ∧ s.masked = false ∧ s.tickPending = true ∧
      s.uptime.toNat + 1 < 2 ^ s.cfg.uptimeW) ∧
    (∃ s t : State, s.Inv ∧ s.input.rst = false ∧ step s = .next t ∧ s.masked = false ∧ s.tickPending = false ∧
      s.input.tick = false) := by
  refine ⟨⟨sending (strip 8) .gap 7 3 0 0 [ticks], ?_⟩,
    ⟨{ State.resetWith (timer 4) [ticks] 0 with uptime := 15, deadline := 9 }, ?_⟩,
    ⟨{ State.resetWith (timer 4) [ticks] 0 with uptime := 14, tickPending := true }, ?_⟩,
    ⟨State.resetWith (timer 4) [Input.quiet] 0, ?_⟩⟩
  all_goals
    refine Exists.imp (fun t ht => ⟨?_, rfl, ht, ?_⟩) (steps _ (by decide))
    · constructor <;> decide
    · decide

theorem witness_UptimeRises :
    (∃ s t : State, s.Inv ∧ s.input.rst = false ∧ step s = .next t ∧ s.uptime.toNat = 2 ^ s.cfg.uptimeW - 1) ∧
      ∃ t, exec (.delay 1) State.reset = .next t := by
  refine ⟨⟨{ State.resetWith (timer 1) [ticks] 0 with uptime := 1 }, ?_⟩, _, rfl⟩
  exact Exists.imp (fun t ht => ⟨by constructor <;> decide, rfl, ht, by decide⟩) (steps _ (by decide))

/-- The second masked tick, which is lost, and a first one, which is held. -/
theorem witness_LostTick :
    (∃ s t : State, s.Inv ∧ s.input.rst = false ∧ step s = .next t ∧ s.uptime.toNat + 1 < 2 ^ s.cfg.uptimeW ∧
      s.masked = true ∧ s.tickPending = true ∧ s.input.tick = true) ∧
    (∃ s t : State, s.Inv ∧ s.input.rst = false ∧ step s = .next t ∧ s.uptime.toNat + 1 < 2 ^ s.cfg.uptimeW ∧
      s.masked = true ∧ s.tickPending = false ∧ s.input.tick = true) := by
  refine ⟨⟨{ sending (strip 8) .gap 7 3 0 0 [ticks] with tickPending := true }, ?_⟩,
    ⟨sending (strip 8) .gap 7 3 0 0 [ticks], ?_⟩⟩
  all_goals
    refine Exists.imp (fun t ht => ⟨?_, rfl, ht, by decide⟩) (steps _ (by decide))
    constructor <;> decide

/-- A run of no step, and one of one step with a tick. -/
theorem witness_UptimeRisesOnlyByTicks :
    (waiting 5 8 [ticks]).Inv ∧ (waiting 5 8 [ticks]).NoResetFor 1 ∧ StepsTo 0 State.reset State.reset ∧
      ∃ t, StepsTo 1 (waiting 5 8 [ticks]) t :=
  ⟨by constructor <;> decide, by unfold State.NoResetFor; decide, rfl, stepsTo_one (by decide)⟩

/-- The inputs of a whole tiny frame: the TX word, then quiet cycles but for one tick inside the frame. -/
def frameInputs : List Input :=
  offers 0x3000000000000000 :: (List.replicate 9 Input.quiet ++ ticks :: List.replicate 60 Input.quiet)

/-- The reset state of one tiny LED about to accept a TX. -/
def aboutToSend : State := State.resetWith tiny frameInputs 0

theorem aboutToSend_inv : aboutToSend.Inv := by constructor <;> decide

theorem aboutToSend_accepts : aboutToSend.Accepts 0x3000000000000000 := ⟨by decide, rfl, rfl, rfl, rfl, rfl⟩

theorem aboutToSend_length : frameLength aboutToSend.cfg aboutToSend.fb = 65 := by decide

theorem aboutToSend_inputs : ∀ j, j < 66 →
    (aboutToSend.inputAt j).rst = false ∧ (aboutToSend.inputAt j).tick = decide (10 ≤ j ∧ (j - 10) % 16000 = 0) := by
  decide

/-- One tick in the frame, in its step 10. -/
theorem witness_ShortFrame :
    aboutToSend.Inv ∧ aboutToSend.Accepts 0x3000000000000000 ∧
      decode aboutToSend.cfg.uptimeW 0x3000000000000000 = .ok .tx ∧ aboutToSend.cfg.txMasksIrq = true ∧
      frameLength aboutToSend.cfg aboutToSend.fb < aboutToSend.cfg.tickCyc ∧
      aboutToSend.TicksPeriodic (frameLength aboutToSend.cfg aboutToSend.fb + 1) 10 ∧
      aboutToSend.NoResetFor (frameLength aboutToSend.cfg aboutToSend.fb + 1) ∧
      aboutToSend.uptime.toNat + 1 < 2 ^ aboutToSend.cfg.uptimeW := by
  refine ⟨aboutToSend_inv, aboutToSend_accepts, by decide, rfl, ?_, ?_, ?_, by decide⟩
  · rw [aboutToSend_length]; decide
  · rw [aboutToSend_length]
    exact ⟨by decide, fun j hj => (aboutToSend_inputs j hj).2⟩
  · rw [aboutToSend_length]
    exact fun j hj => (aboutToSend_inputs j hj).1

/-! ### DELAY -/

/-- At the deadline and one short of it. -/
theorem witness_DelayCompletes :
    (waiting 5 5 [offers 0]).Inv ∧ (waiting 5 5 [offers 0]).input.rst = false ∧
      (5 : Word).toNat ≤ (5 : Word).toNat ∧ (waiting 7 8 [offers 0]).Inv ∧ (7 : Word).toNat < (8 : Word).toNat :=
  ⟨waiting_done_inv, rfl, by decide, by constructor <;> decide, by decide⟩

theorem witness_NothingCancels :
    (waiting 5 8 [offers 0, ticks]).Inv ∧ (waiting 5 8 [offers 0, ticks]).ctl = .busyDelay ∧
      (waiting 5 8 [offers 0, ticks]).uptime.toNat < (waiting 5 8 [offers 0, ticks]).deadline.toNat ∧
      (waiting 5 8 [offers 0, ticks]).input.rst = false ∧ (∃ t, step (waiting 5 8 [offers 0, ticks]) = .next t) ∧
      (waiting 5 8 [{ offers 0 with rst := true }]).Inv ∧
      (waiting 5 8 [{ offers 0 with rst := true }]).input.rst = true ∧
      ∃ t, step (waiting 5 8 [{ offers 0 with rst := true }]) = .next t :=
  ⟨waiting_inv, rfl, by decide, rfl, steps _ (by decide), by constructor <;> decide, rfl, steps _ (by decide)⟩

theorem witness_DelayZero :
    (offering (strip 8) 0x4000000000000000).Inv ∧
      (offering (strip 8) 0x4000000000000000).Accepts 0x4000000000000000 ∧
      decode (strip 8).uptimeW 0x4000000000000000 = .ok (.delay 0) ∧
      (offering (strip 8) 0x4000000000000000).NoResetFor 2 :=
  ⟨offering_inv (by decide) _, offering_accepts (by decide) _, by decide, by unfold State.NoResetFor; decide⟩

/-- DELAY 1 at uptime 5 with a tick in its first waiting step: short of the target one step on, and at it two steps on. -/
theorem witness_DelayWaits :
    ∃ s : State, s.Inv ∧ s.Accepts 0x4000000000000001 ∧ decode s.cfg.uptimeW 0x4000000000000001 = .ok (.delay 1) ∧
      0 < (1 : Word).toNat ∧ s.uptime.toNat + (1 : Word).toNat < 2 ^ s.cfg.uptimeW ∧ s.NoResetFor 3 ∧
      (∀ j u, 1 ≤ j → j < 2 → StepsTo j s u → u.uptime.toNat < s.uptime.toNat + (1 : Word).toNat) ∧
      ∃ t, StepsTo 2 s t ∧ s.uptime.toNat + (1 : Word).toNat ≤ t.uptime.toNat := by
  let u : State := { State.resetWith (strip 8) [ticks, Input.quiet] 1 with uptime := 5, deadline := 6, ctl := .busyDelay }
  let t : State := { State.resetWith (strip 8) [Input.quiet] 2 with uptime := 6, deadline := 6, ctl := .busyDelay }
  refine ⟨{ State.resetWith (strip 8) [offers 0x4000000000000001, ticks, Input.quiet] 0 with uptime := 5 },
    by constructor <;> decide, ⟨by decide, rfl, rfl, rfl, rfl, rfl⟩, by decide, by decide, by decide,
    by unfold State.NoResetFor; decide, ?_, t, ⟨u, rfl, t, rfl, rfl⟩, by decide⟩
  intro j u' h1 h2 hu
  obtain rfl : j = 1 := by omega
  obtain rfl : u' = u := stepsTo_unique hu ⟨u, rfl, rfl⟩
  decide

/-- TB-7, and the boundary `u0 + ms = 2^W`. -/
theorem witness_DelayOverflow :
    (∃ s : State, s.Inv ∧ s.Accepts 0x4000000000000005 ∧ decode s.cfg.uptimeW 0x4000000000000005 = .ok (.delay 5) ∧
      2 ^ s.cfg.uptimeW ≤ s.uptime.toNat + (5 : Word).toNat ∧ s.NoResetFor 2) ∧
    (2 ^ 4 = (14 : Word).toNat + (2 : Word).toNat) :=
  ⟨⟨{ offering (timer 4) 0x4000000000000005 with uptime := 14 }, by constructor <;> decide,
    ⟨by decide, rfl, rfl, rfl, rfl, rfl⟩, by decide, by decide, by unfold State.NoResetFor; decide⟩, by decide⟩

/-- TB-8b, and a delay waiting at the top value. -/
theorem witness_DelayAcrossWrap :
    (waiting 0xFFFFFFFF 0xFFFFFFFF [ticks]).Inv ∧ (waiting 0xFFFFFFFF 0xFFFFFFFF [ticks]).input.rst = false ∧
      (waiting 0xFFFFFFFF 0xFFFFFFFF [ticks]).uptime.toNat = 2 ^ 32 - 1 ∧
      ∃ s : State, s.Inv ∧ s.Accepts 0x4000000000000003 ∧ decode s.cfg.uptimeW 0x4000000000000003 = .ok (.delay 3) ∧
        s.uptime.toNat = 2 ^ s.cfg.uptimeW - 1 ∧ s.NoResetFor 2 :=
  ⟨waiting_top_inv, rfl, by decide, { offering (timer 4) 0x4000000000000003 with uptime := 15 },
    by constructor <;> decide, ⟨by decide, rfl, rfl, rfl, rfl, rfl⟩, by decide, by decide,
    by unfold State.NoResetFor; decide⟩

/-- TB-12, three cycles of it. -/
theorem witness_DelayHangs :
    (waiting 0 1 (List.replicate 3 Input.quiet)).Inv ∧
      (waiting 0 1 (List.replicate 3 Input.quiet)).uptime.toNat <
        (waiting 0 1 (List.replicate 3 Input.quiet)).deadline.toNat ∧
      (waiting 0 1 (List.replicate 3 Input.quiet)).tickPending = false ∧
      (waiting 0 1 (List.replicate 3 Input.quiet)).NoResetFor 3 ∧
      ∀ j, j < 3 → ((waiting 0 1 (List.replicate 3 Input.quiet)).inputAt j).tick = false :=
  ⟨by constructor <;> decide, by decide, rfl, by unfold State.NoResetFor; decide, by decide⟩

/-! ### The port and HALTED -/

/-- A halted block that is offered a word, with a tick and no wrap, and one whose counter wraps. -/
theorem witness_Halted :
    ((haltedState [offers 0, ticks]).Inv ∧ (haltedState [offers 0, ticks]).ctl = .halted ∧
      (haltedState [offers 0, ticks]).NoResetFor 2 ∧
      (haltedState [offers 0, ticks]).uptime.toNat + (haltedState [offers 0, ticks]).tickPending.toNat +
        (haltedState [offers 0, ticks]).ticksIn 2 < 2 ^ (haltedState [offers 0, ticks]).cfg.uptimeW) ∧
    ∃ s : State, s.Inv ∧ s.ctl = .halted ∧ s.NoResetFor 1 ∧ s.input.tick = true ∧
      s.uptime.toNat = 2 ^ s.cfg.uptimeW - 1 ∧ s.deadline ≠ 0 :=
  ⟨⟨halted_inv, rfl, by unfold State.NoResetFor; decide, by decide⟩,
    { haltedState [ticks] with uptime := 0xFFFFFFFF, deadline := 9 }, by constructor <;> decide, rfl,
    by unfold State.NoResetFor; decide, rfl, by decide, by decide⟩

/-- FB-4: from READY to HALTED. -/
theorem witness_FaultArises :
    ∃ s t : State, s.ctl ≠ .halted ∧ step s = .next t ∧ t.ctl = .halted :=
  ⟨offering (strip 8) 0x1000000800000000,
    { State.resetWith (strip 8) [Input.quiet, Input.quiet, Input.quiet] 1 with
      ctl := .halted, faultCode := 1, faultCmd := 0x1000000800000000, rsp := ⟨true, 1, 0⟩ },
    by decide, rfl, rfl⟩

/-- A reset; a tick beside each of RD_UPTIME, DELAY, TX, an illegal word, and an FB_SET and an FB_GET past N; a wrap
beside a DELAY; a tick in a frame's last step. -/
theorem witness_Simultaneous :
    (∃ s t : State, step s = .next t ∧ s.input.rst = true) ∧
    (∀ w ∈ [0x5000000000000000, 0x4000000000000003, 0x3000000000000000, 0x7000000000000000, 0x1000000800000000,
        0x2000000800000000], ∃ s t : State, s.Inv ∧ s.Accepts w ∧
      s.input.tick = true ∧ s.uptime.toNat + 1 < 2 ^ s.cfg.uptimeW ∧ step s = .next t) ∧
    (∃ s t : State, s.Inv ∧ s.Accepts 0x4000000000000003 ∧ decode s.cfg.uptimeW 0x4000000000000003 = .ok (.delay 3) ∧
      s.input.tick = true ∧ s.uptime.toNat = 2 ^ s.cfg.uptimeW - 1 ∧ step s = .next t) ∧
    (∃ s t u : State, s.Inv ∧ s.NoResetFor 2 ∧ s.cfg.txMasksIrq = true ∧ s.sd.phase = .gap ∧ s.sd.cnt = 0 ∧
      s.input.tick = true ∧ s.uptime.toNat + 1 < 2 ^ s.cfg.uptimeW ∧ step s = .next t ∧ step t = .next u) := by
  refine ⟨⟨haltedState [{ offers 0 with rst := true }], State.resetWith Config.default [] 1, rfl, rfl⟩, ?_,
    ⟨{ offeringWithTick (timer 4) 0x4000000000000003 with uptime := 15 }, ?_⟩,
    ⟨sending (strip 8) .gap 7 3 0 0 [ticks, Input.quiet],
      { State.resetWith (strip 8) [Input.quiet] 1 with tickPending := true, rsp := ⟨true, 0, 0⟩ }, ?_⟩⟩
  · intro w hw
    have hl : (strip 8).legal = true := by decide
    have hu : (0 : Word).toNat + 1 < 2 ^ 32 := by decide
    refine ⟨offeringWithTick (strip 8) w,
      Exists.imp (fun t ht => ⟨?_, ⟨hl, rfl, rfl, rfl, rfl, rfl⟩, rfl, hu, ht⟩) (steps _ ?_)⟩
    · constructor <;> simp [offeringWithTick, State.resetWith, SignalRegs.reset, FrameBuffer.wf, FrameBuffer.wfFrom, hl]
    · simp only [List.mem_cons, List.not_mem_nil, or_false] at hw
      rcases hw with rfl | rfl | rfl | rfl | rfl | rfl <;> decide
  · refine Exists.imp (fun t ht => ⟨?_, ⟨by decide, rfl, rfl, rfl, rfl, rfl⟩, by decide, rfl, by decide, ht⟩)
      (steps _ (by decide))
    constructor <;> decide
  · refine Exists.imp (fun u hu => ⟨?_, by unfold State.NoResetFor; decide, rfl, rfl, rfl, rfl, by decide, rfl, hu⟩)
      (steps _ (by decide))
    constructor <;> decide

/-- A completing step, and one that gives no response. -/
theorem witness_Response :
    (∃ s t : State, s.Inv ∧ s.input.rst = false ∧ step s = .next t ∧ s.ctl = .busyDelay ∧
      s.deadline.toNat ≤ s.uptime.toNat) ∧
    (∃ s t : State, s.Inv ∧ s.input.rst = false ∧ step s = .next t ∧ t.rsp.valid = false) :=
  ⟨⟨waiting 5 5 [Input.quiet], { waiting 5 5 [] with ctl := .ready, rsp := ⟨true, 0, 0⟩, cycle := 1 },
      by constructor <;> decide, rfl, rfl, rfl, by decide⟩,
    ⟨haltedState [offers 0], { haltedState [] with cycle := 1 }, by constructor <;> decide, rfl, rfl, rfl⟩⟩

theorem witness_OfferNotReady :
    (haltedState [offers 0]).ctl ≠ .ready ∧ (haltedState [offers 0]).inputs = offers 0 :: [] := by decide

/-- A host that holds RD_UPTIME, and one that holds an illegal word, while a delay completes. -/
theorem witness_HeldWord : ∀ w ∈ [0x5000000000000000, 0x7000000000000000], ∃ s : State, s.Inv ∧ s.HostHolds 1 ∧ s.input.cmdValid = true ∧ s.input.cmdWord = w ∧
      (∀ j u, j < 1 → StepsTo j s u → u.ctl ≠ .ready) ∧
      ∃ t, StepsTo 1 s t ∧ t.ctl = .ready ∧ t.input.rst = false := by
  intro w hw
  let t : State := { State.resetWith Config.default [offers w] 1 with uptime := 5, deadline := 5, rsp := ⟨true, 0, 0⟩ }
  refine ⟨waiting 5 5 [offers w, offers w], ?_, ?_, rfl, rfl, ?_,
    t, ⟨t, rfl, rfl⟩, rfl, rfl⟩
  · simp only [List.mem_cons, List.not_mem_nil, or_false] at hw
    rcases hw with rfl | rfl <;> constructor <;> decide
  · intro j t hj ht _ _
    obtain rfl : j = 0 := by omega
    obtain rfl : t = _ := ht
    exact ⟨rfl, rfl⟩
  · intro j u hj hu
    obtain rfl : j = 0 := by omega
    obtain rfl : u = _ := hu
    exact fun h => nomatch h

/-! ### SignalDriver -/

/-- Counting, and at the falling edge. -/
theorem witness_High :
    (sending (strip 8) .high 0 0 7 5 [Input.quiet]).Inv ∧
      (sending (strip 8) .high 0 0 7 5 [Input.quiet]).input.rst = false ∧
      (sending (strip 8) .high 0 0 7 5 [Input.quiet]).stalled false = false ∧
      (sending (strip 8) .high 0 0 7 0 [Input.quiet]).Inv :=
  ⟨by constructor <;> decide, rfl, by decide, by constructor <;> decide⟩

/-- Counting, the last bit, the next bit, the next channel, and the next LED up to the last. -/
theorem witness_Low :
    (sending (strip 8) .low 0 0 7 13 [Input.quiet]).Inv ∧
      (sending (strip 8) .low 0 0 7 13 [Input.quiet]).input.rst = false ∧
      (sending (strip 8) .low 0 0 7 13 [Input.quiet]).stalled false = false ∧
      (sending (strip 8) .low 7 3 0 0 [Input.quiet]).Inv ∧ (sending (strip 8) .low 7 3 0 0 []).lastBit = true ∧
      (sending (strip 8) .low 7 3 1 0 [Input.quiet]).Inv ∧ (sending (strip 8) .low 7 3 1 0 []).lastBit = false ∧
      (sending (strip 8) .low 7 2 0 0 [Input.quiet]).Inv ∧ (sending (strip 8) .low 7 2 0 0 []).lastBit = false ∧
      (sending (strip 8) .low 6 3 0 0 [Input.quiet]).Inv ∧ (sending (strip 8) .low 6 3 0 0 []).lastBit = false :=
  ⟨by constructor <;> decide, rfl, by decide, by constructor <;> decide, by decide, by constructor <;> decide,
    by decide, by constructor <;> decide, by decide, by constructor <;> decide, by decide⟩

theorem witness_Gap :
    (sending (strip 8) .gap 7 3 0 1279 [Input.quiet]).Inv ∧
      (sending (strip 8) .gap 7 3 0 1279 [Input.quiet]).input.rst = false ∧
      (sending (strip 8) .gap 7 3 0 1279 [Input.quiet]).stalled false = false ∧
      (sending (strip 8) .gap 7 3 0 0 [Input.quiet]).Inv :=
  ⟨by constructor <;> decide, rfl, by decide, by constructor <;> decide⟩

/-- An unmasked frame preempted, and a masked one. -/
theorem witness_Preempt :
    (∃ s t : State, s.Inv ∧ s.input.rst = false ∧ s.sd.phase ≠ .idle ∧ s.input.preempt = true ∧ s.masked = false ∧
      step s = .next t) ∧
    (∃ (s : State) (inp : Input) (rest : List Input), s.cfg.txMasksIrq = true ∧ s.inputs = inp :: rest) := by
  refine ⟨⟨sending { strip 8 with txMasksIrq := false } .high 0 0 7 5 [{ Input.quiet with preempt := true }], ?_⟩,
    sending (strip 8) .high 0 0 7 5 [Input.quiet], _, _, rfl, rfl⟩
  refine Exists.imp (fun t ht => ⟨?_, rfl, by decide, rfl, by decide, ht⟩) (steps _ (by decide))
  constructor <;> decide

theorem witness_FrameStandsStill :
    aboutToSend.Inv ∧ aboutToSend.Accepts 0x3000000000000000 ∧
      decode aboutToSend.cfg.uptimeW 0x3000000000000000 = .ok .tx ∧ aboutToSend.NoResetFor 1 ∧
      (∀ j u, 1 ≤ j → j < 1 → StepsTo j aboutToSend u → u.sd.phase ≠ .idle) ∧ ∃ t, StepsTo 1 aboutToSend t :=
  ⟨aboutToSend_inv, aboutToSend_accepts, by decide, fun j hj => (aboutToSend_inputs j (by omega)).1,
    fun j _ h1 h2 => absurd h1 (by omega), stepsTo_one (by decide)⟩

theorem witness_Cursor :
    (sending (strip 8) .high 7 3 0 5 []).FrameInv ∧ (sending (strip 8) .high 7 3 0 5 []).sd.phase ≠ .idle :=
  ⟨by constructor <;> decide, by decide⟩

theorem witness_Waveform :
    aboutToSend.Inv ∧ aboutToSend.Accepts 0x3000000000000000 ∧
      decode aboutToSend.cfg.uptimeW 0x3000000000000000 = .ok .tx ∧
      aboutToSend.NoResetFor (frameLength aboutToSend.cfg aboutToSend.fb + 1) ∧
      aboutToSend.NoStallFor (frameLength aboutToSend.cfg aboutToSend.fb) :=
  ⟨aboutToSend_inv, aboutToSend_accepts, by decide, witness_ShortFrame.2.2.2.2.2.2.1, .inl rfl⟩

theorem witness_FrameLength : Config.default.t0h + Config.default.t0l = Config.default.t1h + Config.default.t1l := by
  decide

/-- The defaults, and the shortest gap that a receiver can tell. -/
theorem witness_Receiver :
    Config.default.legal = true ∧
      max Config.default.t0l Config.default.t1l - min Config.default.t0l Config.default.t1l < Config.default.tres ∧
      Config.legal { Config.default with tres := 8 } = true ∧ max 14 7 - min 14 7 < 8 := by decide

end Sys2Proof.Tests
end

section
/-! What `step` answers on build parameters that no build may have (00_scope.md R9, 42_signal_driver.md R94). -/

namespace Sys2Proof.Machine

/-- The check of the build parameters comes first: neither the inputs of the cycle nor the other registers matter
(93_implementation_defined.md R-5, log 2). It stands beside `step_of_reset` and `step_of_units`, the legal builds. -/
theorem step_of_illegal {s : State} (hl : s.cfg.legal = false) : step s = .refused .illegalConfig :=
  if_neg (ne_true_of_eq_false hl)

/-- Settles O33, by the branch of `step` for parameters that fail the check. -/
theorem illegalParametersAreRefused : Obligations.IllegalParametersAreRefused :=
  fun _ hl => step_of_illegal hl

end Sys2Proof.Machine
end

section
/-! FrameBuffers in canonical form are determined by what they read (10_state.md R20, log 5). -/

namespace Sys2Proof.Machine

theorem FrameBuffer.read_cons_same (j : Nat) (d : Color) (rest : FrameBuffer) :
    FrameBuffer.read ((j, d) :: rest) j = d := if_pos rfl

theorem FrameBuffer.read_cons_other {i j : Nat} (h : i ≠ j) (d : Color) (rest : FrameBuffer) :
    FrameBuffer.read ((j, d) :: rest) i = rest.read i := if_neg h

/-- A canonical list that reads 0 everywhere holds no cell, since the Color of its first cell is not 0. -/
theorem FrameBuffer.eq_nil_of_read_eq_zero {n lo : Nat} {fb : FrameBuffer} (h : FrameBuffer.wfFrom n lo fb = true)
    (hz : ∀ i, fb.read i = 0) : fb = [] := by
  cases fb with
  | nil => rfl
  | cons cell rest =>
    obtain ⟨j, d⟩ := cell
    obtain ⟨-, -, hd, -⟩ := (FrameBuffer.wfFrom_cons_iff ..).mp h
    exact absurd ((FrameBuffer.read_cons_same j d rest).symm.trans (hz j)) hd

/-- The first cell of a canonical list stands no later than an index that reads other than 0. -/
theorem FrameBuffer.head_le_of_read_ne_zero {n lo i j : Nat} {d : Color} {rest : FrameBuffer}
    (h : FrameBuffer.wfFrom n lo ((j, d) :: rest) = true) (hi : FrameBuffer.read ((j, d) :: rest) i ≠ 0) : j ≤ i := by
  obtain ⟨-, hj, hd, hrest⟩ := (FrameBuffer.wfFrom_cons_iff ..).mp h
  by_contra hlt
  exact hi (FrameBuffer.read_below (n := n) (lo := j)
    ((FrameBuffer.wfFrom_cons_iff ..).mpr ⟨le_rfl, hj, hd, hrest⟩) (Nat.lt_of_not_le hlt))

/-- Two canonical lists with the same head that read alike have tails that read alike: below the tails both read 0. -/
theorem FrameBuffer.tails_read_eq {n j : Nat} {d : Color} {as bs : FrameBuffer}
    (ha : FrameBuffer.wfFrom n (j + 1) as = true) (hb : FrameBuffer.wfFrom n (j + 1) bs = true)
    (h : ∀ i, FrameBuffer.read ((j, d) :: as) i = FrameBuffer.read ((j, d) :: bs) i) (i : Nat) :
    as.read i = bs.read i := by
  by_cases hi : i = j
  · rw [FrameBuffer.read_below ha (by omega), FrameBuffer.read_below hb (by omega)]
  · simpa only [FrameBuffer.read_cons_other hi] using h i

/-- Reading determines a canonical list: the heads agree, because neither can stand before the other, and then the
tails read alike. -/
theorem FrameBuffer.eq_of_read_eq {n lo : Nat} {a b : FrameBuffer} (ha : FrameBuffer.wfFrom n lo a = true)
    (hb : FrameBuffer.wfFrom n lo b = true) (h : ∀ i, a.read i = b.read i) : a = b := by
  induction a generalizing lo b with
  | nil => exact (FrameBuffer.eq_nil_of_read_eq_zero hb fun i => (h i).symm).symm
  | cons cell as ih =>
    cases b with
    | nil => exact FrameBuffer.eq_nil_of_read_eq_zero ha h
    | cons cell' bs =>
      obtain ⟨j, d⟩ := cell
      obtain ⟨j', d'⟩ := cell'
      obtain ⟨-, -, hd, has⟩ := (FrameBuffer.wfFrom_cons_iff ..).mp ha
      obtain ⟨-, -, hd', hbs⟩ := (FrameBuffer.wfFrom_cons_iff ..).mp hb
      have hle : j' ≤ j := FrameBuffer.head_le_of_read_ne_zero hb (by rwa [← h, FrameBuffer.read_cons_same])
      have hge : j ≤ j' := FrameBuffer.head_le_of_read_ne_zero ha (by rwa [h, FrameBuffer.read_cons_same])
      obtain rfl : j = j' := le_antisymm hge hle
      obtain rfl : d = d' := by simpa only [FrameBuffer.read_cons_same] using h j
      rw [ih has hbs (FrameBuffer.tails_read_eq has hbs h)]

/-- Settles O24, by induction over the canonical list. -/
theorem canonicalBuffersThatReadAlikeAreEqual : Obligations.CanonicalBuffersThatReadAlikeAreEqual :=
  fun _ _ _ ha hb h => FrameBuffer.eq_of_read_eq ha hb h

end Sys2Proof.Machine
end

section
/-! What else the build check says, beside `Config.th_pos`, `Config.tl_pos` (00_scope.md R9, 42_signal_driver.md R94). -/

namespace Sys2Proof

theorem Config.tres_pos {c : Config} (h : c.legal = true) : 1 ≤ c.tres := by
  obtain ⟨-, -, -, ⟨-, -, -, -, hres⟩, -⟩ := (Config.legal_iff c).mp h
  exact hres

theorem Config.uptimeW_le {c : Config} (h : c.legal = true) : c.uptimeW ≤ 32 := by
  obtain ⟨-, ⟨-, hw⟩, -⟩ := (Config.legal_iff c).mp h
  exact hw

/-- The next LED's index, where there is one, does not overflow the cursor's 16 bits (00_scope.md R9: N ≤ 65535). -/
theorem Config.led_succ_toNat {c : Config} (hl : c.legal = true) {led : BitVec 16} (h : led.toNat + 1 < c.n) :
    (led + 1).toNat = led.toNat + 1 := by
  obtain ⟨⟨-, hn⟩, -⟩ := (Config.legal_iff c).mp hl
  rw [BitVec.toNat_add, show (1 : BitVec 16).toNat = 1 from rfl, Nat.mod_eq_of_lt (by omega)]

end Sys2Proof
end

section
/-! What the SignalDriver's registers keep on their own (10_state.md R40): the part of `State.Inv` that speaks of `sd_*`
and `dout` alone, kept by every phase of SdStep (42_signal_driver.md R98 to R104). -/

namespace Sys2Proof.Machine

/-- INV-IDLE, INV-LED, INV-DOUT and INV-CNT of 10_state.md R40, of the SignalDriver's registers in a build `c`. -/
structure SignalRegs.Inv (c : Config) (r : SignalRegs) : Prop where
  idle : r.phase = .idle → r = SignalRegs.reset
  led : r.phase ≠ .idle → r.led.toNat < c.n
  dout : r.dout = true ↔ r.phase = .high
  cntHigh : r.phase = .high → r.cnt < c.th r.curBit
  cntLow : r.phase = .low → r.cnt < c.tl r.curBit
  cntGap : r.phase = .gap → r.cnt < c.tres
  cntFits : r.cnt < 2 ^ c.cntW

theorem State.Inv.signal {s : State} (h : s.Inv) : s.sd.Inv s.cfg :=
  ⟨h.idle, h.led, h.dout, h.cntHigh, h.cntLow, h.cntGap, h.cntFits⟩

theorem SignalRegs.reset_inv (c : Config) : SignalRegs.reset.Inv c := by
  constructor <;> simp [SignalRegs.reset]

/-- A bit begun below N: the counter holds its high phase less one. -/
theorem beginBit_inv {c : Config} (hl : c.legal = true) {led : BitVec 16} (hled : led.toNat < c.n) (slot : BitVec 2)
    (bit : BitVec 3) (byte : Byte) : (beginBit c led slot bit byte).Inv c where
  idle hp := nomatch hp
  led _ := hled
  dout := by simp
  cntHigh _ := Nat.sub_one_lt_of_le (Config.th_pos hl _) le_rfl
  cntLow hp := nomatch hp
  cntGap hp := nomatch hp
  cntFits := Config.pred_fits hl (Config.th_le_maxPhase c _)

/-- Counting down keeps the phase and its bound. -/
theorem SignalRegs.Inv.countDown {c : Config} {r : SignalRegs} (h : r.Inv c) (hne : r.phase ≠ .idle) :
    SignalRegs.Inv c { r with cnt := r.cnt - 1 } where
  idle hp := absurd hp hne
  led := h.led
  dout := h.dout
  cntHigh hp := (Nat.sub_le ..).trans_lt (h.cntHigh hp)
  cntLow hp := (Nat.sub_le ..).trans_lt (h.cntLow hp)
  cntGap hp := (Nat.sub_le ..).trans_lt (h.cntGap hp)
  cntFits := (Nat.sub_le ..).trans_lt h.cntFits

/-- The falling edge (42_signal_driver.md R101): the counter holds the bit's low phase less one. -/
theorem SignalRegs.Inv.fall {c : Config} {r : SignalRegs} (h : r.Inv c) (hne : r.phase ≠ .idle) (hl : c.legal = true) :
    SignalRegs.Inv c { r with dout := false, phase := .low, cnt := c.tl r.curBit - 1 } where
  idle hp := nomatch hp
  led _ := h.led hne
  dout := by simp
  cntHigh hp := nomatch hp
  cntLow _ := Nat.sub_one_lt_of_le (Config.tl_pos hl _) le_rfl
  cntGap hp := nomatch hp
  cntFits := Config.pred_fits hl (Config.tl_le_maxPhase c _)

/-- The gap begun (42_signal_driver.md R102): the counter holds it less one, and the line is low already. -/
theorem SignalRegs.Inv.beginGap {c : Config} {r : SignalRegs} (h : r.Inv c) (hp : r.phase = .low) (hl : c.legal = true) :
    SignalRegs.Inv c { r with phase := .gap, cnt := c.tres - 1 } where
  idle hp := nomatch hp
  led _ := h.led (by simp [hp])
  dout := by simp [h.dout, hp]
  cntHigh hp := nomatch hp
  cntLow hp := nomatch hp
  cntGap _ := Nat.sub_one_lt_of_le (Config.tres_pos hl) le_rfl
  cntFits := Config.pred_fits hl (Config.tres_le_maxPhase c)

/-- Advance stays below N (42_signal_driver.md R103). -/
theorem advanceBit_inv {s : State} {r : SignalRegs} (hl : s.cfg.legal = true) (hled : s.sd.led.toNat < s.cfg.n)
    (h : advanceBit s = .ok r) : r.Inv s.cfg := by
  rcases advanceBit_cases h with ⟨-, rfl⟩ | ⟨-, -, -, rfl⟩ | ⟨-, -, hnext, rfl⟩
  · exact beginBit_inv hl hled ..
  · exact beginBit_inv hl hled ..
  · exact beginBit_inv hl (by rwa [Config.led_succ_toNat hl hnext]) ..

/-- SdStep while a frame is sent: a stall, a count, or one of the four moves from phase to phase (42_signal_driver.md
R99 to R104). -/
theorem sdStep_sending_cases {s : State} {preempt : Bool} {o : SdOut} (hne : s.sd.phase ≠ .idle)
    (h : sdStep s preempt = .ok o) :
    (s.stalled preempt = true ∧ o = ⟨s.sd, false⟩) ∨
      (s.stalled preempt = false ∧ 0 < s.sd.cnt ∧ o = ⟨{ s.sd with cnt := s.sd.cnt - 1 }, false⟩) ∨
      (s.stalled preempt = false ∧ s.sd.phase = .high ∧ s.sd.cnt = 0 ∧
        o = ⟨{ s.sd with dout := false, phase := .low, cnt := s.cfg.tl s.sd.curBit - 1 }, false⟩) ∨
      (s.stalled preempt = false ∧ s.sd.phase = .low ∧ s.sd.cnt = 0 ∧ s.lastBit = true ∧
        o = ⟨{ s.sd with phase := .gap, cnt := s.cfg.tres - 1 }, false⟩) ∨
      (s.stalled preempt = false ∧ s.sd.phase = .low ∧ s.sd.cnt = 0 ∧ s.lastBit = false ∧
        ∃ r, advanceBit s = .ok r ∧ o = ⟨r, false⟩) ∨
      (s.stalled preempt = false ∧ s.sd.phase = .gap ∧ s.sd.cnt = 0 ∧ o = ⟨SignalRegs.reset, true⟩) := by
  rcases sdStep_cases h with ⟨hst, rfl⟩ | ⟨hp, -⟩ | ⟨hst, hp, rfl⟩ | ⟨hst, hp, r, hr, rfl⟩ | ⟨hst, hp, rfl⟩
  · exact .inl ⟨hst, rfl⟩
  · exact absurd hp hne
  · unfold highStep
    split
    · exact .inr (.inl ⟨hst, ‹_›, rfl⟩)
    · exact .inr (.inr (.inl ⟨hst, hp, by omega, rfl⟩))
  · rcases lowStep_cases hr with ⟨hc, rfl⟩ | ⟨hc, hlast, rfl⟩ | ⟨hc, hlast, hadv⟩
    · exact .inr (.inl ⟨hst, hc, rfl⟩)
    · exact .inr (.inr (.inr (.inl ⟨hst, hp, hc, hlast, rfl⟩)))
    · exact .inr (.inr (.inr (.inr (.inl ⟨hst, hp, hc, hlast, r, hadv, rfl⟩))))
  · rcases gapStep_cases s with ⟨hc, hg⟩ | ⟨hc, hg⟩
    · exact .inr (.inl ⟨hst, hc, hg⟩)
    · exact .inr (.inr (.inr (.inr (.inr ⟨hst, hp, hc, hg⟩))))

/-- Advance begins a high phase. -/
theorem advanceBit_phase {s : State} {r : SignalRegs} (h : advanceBit s = .ok r) : r.phase = .high := by
  rcases advanceBit_cases h with ⟨-, rfl⟩ | ⟨-, -, -, rfl⟩ | ⟨-, -, -, rfl⟩ <;> rfl

/-- SdStep keeps the SignalDriver's invariants while a frame is sent. -/
theorem sdStep_inv {s : State} {preempt : Bool} {o : SdOut} (hs : s.Inv) (hne : s.sd.phase ≠ .idle)
    (h : sdStep s preempt = .ok o) : o.regs.Inv s.cfg := by
  rcases sdStep_sending_cases hne h with
    ⟨-, rfl⟩ | ⟨-, -, rfl⟩ | ⟨-, -, -, rfl⟩ | ⟨-, hp, -, -, rfl⟩ | ⟨-, -, -, -, r, hadv, rfl⟩ | ⟨-, -, -, rfl⟩
  · exact hs.signal
  · exact hs.signal.countDown hne
  · exact hs.signal.fall hne hs.legal
  · exact hs.signal.beginGap hp hs.legal
  · exact advanceBit_inv hs.legal (hs.led hne) hadv
  · exact SignalRegs.reset_inv s.cfg

/-- A frame is done in exactly the step that takes the unit to idle (42_signal_driver.md R104). -/
theorem sdStep_done_iff_idle {s : State} {preempt : Bool} {o : SdOut} (hne : s.sd.phase ≠ .idle)
    (h : sdStep s preempt = .ok o) : o.done = true ↔ o.regs.phase = .idle := by
  rcases sdStep_sending_cases hne h with
    ⟨-, rfl⟩ | ⟨-, -, rfl⟩ | ⟨-, -, -, rfl⟩ | ⟨-, -, -, -, rfl⟩ | ⟨-, -, -, -, r, hadv, rfl⟩ | ⟨-, -, -, rfl⟩
  · simp [hne]
  · simp [hne]
  · simp
  · simp
  · simp [advanceBit_phase hadv]
  · simp

end Sys2Proof.Machine
end

section
/-! How each update of the state keeps `State.Inv` (10_state.md R40). -/

namespace Sys2Proof.Machine

/-- RESET_STATE of a legal build has the invariants (10_state.md R44). -/
theorem State.resetWith_inv {cfg : Config} (hl : cfg.legal = true) (inputs : List Input) (cycle : Nat) :
    (State.resetWith cfg inputs cycle).Inv := by
  have hsd := SignalRegs.reset_inv cfg
  exact
    { hsd with
      legal := hl
      fbCanonical := FrameBuffer.reset_wf cfg.n
      uptimeFits := Nat.two_pow_pos _
      deadlineFits := Nat.two_pow_pos _
      tx := by simp
      halt := by simp
      faultCodes := Nat.zero_le _
      statusCodes := Nat.zero_le _ }

variable {s : State}

theorem State.Inv.noResponse (h : s.Inv) : s.noResponse.Inv := { h with }

theorem State.Inv.respond (h : s.Inv) {status : BitVec 4} (hstatus : status.toNat ≤ 3) (data : Word) :
    (s.respond status data).Inv := { h with statusCodes := hstatus }

theorem State.Inv.respondOk (h : s.Inv) (data : Word) : (s.respond statusOk data).Inv := h.respond (Nat.zero_le _) data

theorem State.Inv.withFb (h : s.Inv) {fb : FrameBuffer} (hfb : fb.wf s.cfg.n = true) : State.Inv { s with fb := fb } :=
  { h with fbCanonical := hfb }

theorem State.Inv.withDeadline (h : s.Inv) {d : Word} (hd : d.toNat < 2 ^ s.cfg.uptimeW) :
    State.Inv { s with deadline := d } := { h with deadlineFits := hd }

/-- INV-TX: the unit sends in BUSY_TX only. -/
theorem State.Inv.idle_of_ctl (h : s.Inv) (hc : s.ctl ≠ .busyTx) : s.sd.phase = .idle :=
  not_not.mp fun hne => hc (h.tx.mpr hne)

/-- The controller moved on, HALTED neither left nor entered, with the SignalDriver's new registers. -/
theorem State.Inv.withSignal (h : s.Inv) (hnh : s.ctl ≠ .halted) {ctl : Ctl} (hctl : ctl ≠ .halted) {r : SignalRegs}
    (hr : r.Inv s.cfg) (htx : ctl = .busyTx ↔ r.phase ≠ .idle) : State.Inv { s with sd := r, ctl := ctl } :=
  { hr, h with
    tx := htx
    halt := iff_of_false hctl fun hf => hnh (h.halt.mpr hf) }

/-- The controller moved on beside an idle SignalDriver. -/
theorem State.Inv.withCtl (h : s.Inv) (hidle : s.sd.phase = .idle) (hnh : s.ctl ≠ .halted) {ctl : Ctl}
    (hctl : ctl ≠ .halted) (hntx : ctl ≠ .busyTx) : State.Inv { s with ctl := ctl } :=
  h.withSignal hnh hctl h.signal (iff_of_false hntx (not_not.mpr hidle))

theorem Cause.code_ne_zero (f : Cause) : f.code ≠ 0 := by cases f <;> decide

theorem Cause.code_le_three (f : Cause) : f.code.toNat ≤ 3 := by cases f <;> decide

/-- Fault entry beside an idle SignalDriver (60_exceptions.md R122, R124). -/
theorem State.Inv.raise (h : s.Inv) (hidle : s.sd.phase = .idle) (f : Cause) (w : CmdWord) : (s.raise f w).Inv :=
  { h.respond f.code_le_three 0 with
    tx := iff_of_false (fun hc => nomatch hc) (not_not.mpr hidle)
    halt := iff_of_true rfl f.code_ne_zero
    faultCodes := f.code_le_three }

end Sys2Proof.Machine
end

section
/-! Every step keeps `State.Inv` (10_state.md R40): the commands and the controller beside an idle SignalDriver, a running
frame, and the merge with the TimeBase (10_state.md R43). -/

namespace Sys2Proof.Machine

/-- A command run in READY keeps the invariants. -/
theorem exec_inv {i : Instr} {s t : State} (hs : s.Inv) (hready : s.ctl = .ready) (h : exec i s = .next t) : t.Inv := by
  have hidle : s.sd.phase = .idle := hs.idle_of_ctl (by simp [hready])
  have hnh : s.ctl ≠ .halted := by simp [hready]
  cases i with
  | nop => cases h; exact hs.respondOk 0
  | fbSet idx color =>
    rcases execFbSet_cases h with ⟨hlt, rfl⟩ | ⟨-, rfl⟩
    · exact (hs.respondOk 0).withFb (FrameBuffer.write_wf hs.fbCanonical hlt color)
    · exact hs.raise hidle ..
  | fbGet idx =>
    rcases execFbGet_cases h with ⟨-, rfl⟩ | ⟨-, rfl⟩
    · exact hs.respondOk _
    · exact hs.raise hidle ..
  | tx =>
    obtain ⟨hn, rfl⟩ := execTx_cases h
    exact hs.noResponse.withSignal hnh (by simp) (beginBit_inv hs.legal (led := 0) hn ..) (by simp)
  | delay ms =>
    cases h
    have hd : (addW s.cfg.uptimeW s.uptime ms).toNat < 2 ^ s.cfg.uptimeW := by
      rw [addW_toNat (Config.uptimeW_le hs.legal)]
      exact Nat.mod_lt _ (Nat.two_pow_pos _)
    exact (hs.noResponse.withDeadline hd).withCtl hidle hnh (by simp) (by simp)
  | rdUptime => cases h; exact hs.respondOk _
  | rdStatus => cases h; exact hs.respondOk _

/-- Acceptance in READY keeps the invariants: the command run, or the decode fault entered. -/
theorem accept_inv {s t : State} {w : CmdWord} (hs : s.Inv) (hready : s.ctl = .ready) (h : accept s w = .next t) :
    t.Inv := by
  rcases accept_cases h with ⟨i, -, he⟩ | ⟨e, -, rfl⟩
  · exact exec_inv hs hready he
  · exact hs.raise (hs.idle_of_ctl (by simp [hready])) ..

/-- ControlStep beside an idle SignalDriver keeps the invariants by itself. -/
theorem controlStep_inv {s c : State} {v : Bool} {w : CmdWord} {done : Bool} (hs : s.Inv)
    (hidle : s.sd.phase = .idle) (h : controlStep s v w done = .next c) : c.Inv := by
  rcases controlStep_cases h with ⟨hc, -, ha⟩ | ⟨-, -, rfl⟩ | ⟨hc, -⟩ | ⟨hc, rfl⟩ | ⟨-, rfl⟩
  · exact accept_inv hs hc ha
  · exact hs.noResponse
  · exact absurd hidle (hs.tx.mp hc)
  · rcases delayStep_cases s with ⟨-, hd⟩ | ⟨-, hd⟩ <;> rw [hd]
    · exact (hs.respondOk 0).withCtl hidle (by simp [hc]) (by simp) (by simp)
    · exact hs.noResponse
  · exact hs.noResponse

/-- A running frame: the controller leaves BUSY_TX in exactly the step in which the unit goes idle. -/
theorem txStep_inv {s : State} {preempt : Bool} {o : SdOut} (hs : s.Inv) (hne : s.sd.phase ≠ .idle)
    (ho : sdStep s preempt = .ok o) : State.Inv { txStep s o.done with sd := o.regs } := by
  have hbusy : s.ctl = .busyTx := hs.tx.mpr hne
  have hr : o.regs.Inv s.cfg := sdStep_inv hs hne ho
  have hdone := sdStep_done_iff_idle hne ho
  have hnh : s.ctl ≠ .halted := by simp [hbusy]
  rcases txStep_cases s o.done with ⟨hd, ht⟩ | ⟨hd, ht⟩ <;> rw [ht]
  · exact (hs.respondOk 0).withSignal hnh (by simp) hr (by simp [← hdone, hd])
  · exact hs.noResponse.withSignal (ctl := s.ctl) hnh hnh hr (by simp [hbusy, ← hdone, hd])

/-- The TimeBase's registers written, the wrap's `deadline <- 0` among them, and the environment one step on. -/
theorem State.Inv.withTimeBase {s : State} (h : s.Inv) (tb : TimeBaseOut) (hu : tb.uptime.toNat < 2 ^ s.cfg.uptimeW) :
    State.Inv (State.advanceEnv { s with
      uptime := tb.uptime, tickPending := tb.tickPending, deadline := if tb.wrapped then 0 else s.deadline }) where
  __ := h
  uptimeFits := hu
  deadlineFits := by
    simp only [State.advanceEnv_deadline, State.advanceEnv_cfg]
    split
    · exact Nat.two_pow_pos _
    · exact h.deadlineFits

/-- The merge of a step keeps what holds of the controller's state with the SignalDriver's registers in it. -/
theorem merge_inv {s c : State} {tb : TimeBaseOut} {r : SignalRegs} (hu : tb.uptime.toNat < 2 ^ c.cfg.uptimeW)
    (h : State.Inv { c with sd := if s.sd.phase = .idle then c.sd else r }) : (merge s tb r c).Inv :=
  h.withTimeBase tb hu

/-- Everything a step can do from a state with the invariants: a reset, a step of an idle SignalDriver, in which the
controller alone acts, or a step of a running frame, in which the port is closed (10_state.md R43). -/
theorem step_cases_of_inv {s t : State} (hs : s.Inv) (h : step s = .next t) :
    (s.input.rst = true ∧ t = State.resetWith s.cfg s.inputs.tail (s.cycle + 1)) ∨
      (s.input.rst = false ∧ s.sd.phase = .idle ∧
        ∃ c, controlStep s s.input.cmdValid s.input.cmdWord false = .next c ∧
          t = merge s (timeBaseStep s s.input.tick s.masked) s.sd c) ∨
      (s.input.rst = false ∧ s.sd.phase ≠ .idle ∧
        ∃ o, sdStep s s.input.preempt = .ok o ∧
          t = merge s (timeBaseStep s s.input.tick s.masked) o.regs (txStep s o.done)) := by
  obtain ⟨-, ⟨hr, rfl⟩ | ⟨hr, o, c, ho, hc, rfl⟩⟩ := step_cases h
  · exact .inl ⟨hr, rfl⟩
  · by_cases hp : s.sd.phase = .idle
    · obtain rfl : (⟨s.sd, false⟩ : SdOut) = o := Except.ok.inj ((sdStep_idle hp _).symm.trans ho)
      exact .inr (.inl ⟨hr, hp, c, hc, rfl⟩)
    · rw [controlStep, hs.tx.mpr hp] at hc
      cases hc
      exact .inr (.inr ⟨hr, hp, o, ho, rfl⟩)

theorem txStep_cfg (s : State) (done : Bool) : (txStep s done).cfg = s.cfg := by
  rcases txStep_cases s done with ⟨-, h⟩ | ⟨-, h⟩ <;> rw [h] <;> rfl

theorem txStep_fb (s : State) (done : Bool) : (txStep s done).fb = s.fb := by
  rcases txStep_cases s done with ⟨-, h⟩ | ⟨-, h⟩ <;> rw [h] <;> rfl

/-- One step keeps the invariants. -/
theorem step_inv {s t : State} (hs : s.Inv) (h : step s = .next t) : t.Inv := by
  have hu := timeBaseStep_fits (Config.uptimeW_le hs.legal) hs.uptimeFits s.input.tick s.masked
  rcases step_cases_of_inv hs h with ⟨-, rfl⟩ | ⟨-, hp, c, hc, rfl⟩ | ⟨-, hp, o, ho, rfl⟩
  · exact State.resetWith_inv hs.legal ..
  · refine merge_inv (by rwa [(controlStep_keeps_env hc).1]) ?_
    rw [if_pos hp]
    exact controlStep_inv hs hp hc
  · refine merge_inv (by rwa [txStep_cfg]) ?_
    rw [if_neg hp]
    exact txStep_inv hs hp ho

/-- A run keeps the invariants. -/
theorem stepsTo_inv {k : Nat} {s t : State} (hs : s.Inv) (h : StepsTo k s t) : t.Inv := by
  induction k generalizing s with
  | zero => rw [stepsTo_zero] at h; exact h ▸ hs
  | succ k ih => obtain ⟨u, hu, ht⟩ := h; exact ih (step_inv hs hu) ht

/-- Settles O30: the step lemma, and its induction along a run from the reset state. -/
theorem everyStepKeepsTheInvariants : Obligations.EveryStepKeepsTheInvariants :=
  ⟨fun _ _ => step_inv, fun _ _ inputs cycle _ hl => stepsTo_inv (State.resetWith_inv hl inputs cycle)⟩

end Sys2Proof.Machine
end

section
/-! The byte register and the frame's byte under the cursor (10_state.md R29, R30, 42_signal_driver.md R102, R103). -/

namespace Sys2Proof.Machine

/-- `State.FrameInv` of the registers it speaks of: `r` sends the frame of `fb` in a build `c`. -/
structure SignalRegs.Follows (c : Config) (fb : FrameBuffer) (r : SignalRegs) : Prop where
  byteLoaded : r.phase ≠ .idle → r.byte = wireByte c.order (fb.read r.led.toNat) r.slot
  gapAtEnd : r.phase = .gap → r.led.toNat + 1 = c.n ∧ r.slot.toNat = 3 ∧ r.bit.toNat = 0

theorem State.lastBit_iff (s : State) :
    s.lastBit = true ↔ s.sd.led.toNat + 1 = s.cfg.n ∧ s.sd.slot.toNat = 3 ∧ s.sd.bit.toNat = 0 := decide_eq_true_iff

theorem State.frameInv_iff (s : State) : s.FrameInv ↔ s.sd.Follows s.cfg s.fb :=
  ⟨fun h => ⟨h.byteLoaded, fun hp => s.lastBit_iff.mp (h.gapAtEnd hp)⟩,
    fun h => ⟨h.byteLoaded, fun hp => s.lastBit_iff.mpr (h.gapAtEnd hp)⟩⟩

/-- An idle unit sends no frame. -/
theorem SignalRegs.follows_of_idle (c : Config) (fb : FrameBuffer) {r : SignalRegs} (h : r.phase = .idle) :
    r.Follows c fb :=
  ⟨fun hne => absurd h hne, fun hg => by simp [h] at hg⟩

theorem beginBit_follows {c : Config} {fb : FrameBuffer} {led : BitVec 16} {slot : BitVec 2} {byte : Byte}
    (h : byte = wireByte c.order (fb.read led.toNat) slot) (bit : BitVec 3) :
    (beginBit c led slot bit byte).Follows c fb :=
  ⟨fun _ => h, fun hg => nomatch hg⟩

/-- Advance loads the byte under the cursor it moves to, or stays in the byte (42_signal_driver.md R103). -/
theorem advanceBit_follows {s : State} {r : SignalRegs} (hl : s.cfg.legal = true)
    (hbyte : s.sd.byte = wireByte s.cfg.order (s.fb.read s.sd.led.toNat) s.sd.slot) (h : advanceBit s = .ok r) :
    r.Follows s.cfg s.fb := by
  rcases advanceBit_cases h with ⟨-, rfl⟩ | ⟨-, -, -, rfl⟩ | ⟨-, -, hnext, rfl⟩
  · exact beginBit_follows hbyte _
  · exact beginBit_follows rfl _
  · exact beginBit_follows (by rw [Config.led_succ_toNat hl hnext]) _

/-- SdStep keeps the byte under the cursor: only Advance moves the cursor, and the gap is entered on the last bit. -/
theorem sdStep_follows {s : State} {preempt : Bool} {o : SdOut} (hl : s.cfg.legal = true) (hne : s.sd.phase ≠ .idle)
    (hf : s.sd.Follows s.cfg s.fb) (h : sdStep s preempt = .ok o) : o.regs.Follows s.cfg s.fb := by
  have hbyte := hf.byteLoaded hne
  rcases sdStep_sending_cases hne h with
    ⟨-, rfl⟩ | ⟨-, -, rfl⟩ | ⟨-, -, -, rfl⟩ | ⟨-, -, -, hlast, rfl⟩ | ⟨-, -, -, -, r, hadv, rfl⟩ | ⟨-, -, -, rfl⟩
  · exact hf
  · exact ⟨fun _ => hbyte, hf.gapAtEnd⟩
  · exact ⟨fun _ => hbyte, fun hg => nomatch hg⟩
  · exact ⟨fun _ => hbyte, fun _ => s.lastBit_iff.mp hlast⟩
  · exact advanceBit_follows hl hbyte hadv
  · exact SignalRegs.follows_of_idle _ _ rfl

/-- TX is the one command that writes `sd_*`, with the frame's first byte (42_signal_driver.md R98). -/
theorem exec_sd_cases {i : Instr} {s t : State} (h : exec i s = .next t) :
    t.sd = s.sd ∨
      (i = .tx ∧ t.fb = s.fb ∧ t.sd = beginBit s.cfg 0 0 7 (wireByte s.cfg.order (s.fb.read 0) 0)) := by
  cases i with
  | tx => obtain ⟨-, rfl⟩ := execTx_cases h; exact .inr ⟨rfl, rfl, rfl⟩
  | nop => cases h; exact .inl rfl
  | fbSet idx color => rcases execFbSet_cases h with ⟨-, rfl⟩ | ⟨-, rfl⟩ <;> exact .inl rfl
  | fbGet idx => rcases execFbGet_cases h with ⟨-, rfl⟩ | ⟨-, rfl⟩ <;> exact .inl rfl
  | delay ms => cases h; exact .inl rfl
  | rdUptime => cases h; exact .inl rfl
  | rdStatus => cases h; exact .inl rfl

theorem txStep_sd (s : State) (done : Bool) : (txStep s done).sd = s.sd := by
  rcases txStep_cases s done with ⟨-, h⟩ | ⟨-, h⟩ <;> rw [h] <;> rfl

theorem delayStep_sd (s : State) : (delayStep s).sd = s.sd := by
  rcases delayStep_cases s with ⟨-, h⟩ | ⟨-, h⟩ <;> rw [h] <;> rfl

/-- ControlStep writes `sd_*` only where it accepts a TX. -/
theorem controlStep_sd_cases {s c : State} {v : Bool} {w : CmdWord} {done : Bool}
    (h : controlStep s v w done = .next c) :
    c.sd = s.sd ∨
      (s.ctl = .ready ∧ v = true ∧ decode s.cfg.uptimeW w = .ok .tx ∧ c.fb = s.fb ∧
        c.sd = beginBit s.cfg 0 0 7 (wireByte s.cfg.order (s.fb.read 0) 0)) := by
  rcases controlStep_cases h with ⟨hc, hv, ha⟩ | ⟨-, -, rfl⟩ | ⟨-, rfl⟩ | ⟨-, rfl⟩ | ⟨-, rfl⟩
  · rcases accept_cases ha with ⟨i, hd, he⟩ | ⟨e, -, rfl⟩
    · rcases exec_sd_cases he with hsd | ⟨rfl, hfb, hsd⟩
      · exact .inl hsd
      · exact .inr ⟨hc, hv, hd, hfb, hsd⟩
    · exact .inl rfl
  · exact .inl rfl
  · exact .inl (txStep_sd s done)
  · exact .inl (delayStep_sd s)
  · exact .inl rfl

/-- ControlStep beside an idle SignalDriver starts a frame on its first byte, or none. -/
theorem controlStep_follows {s c : State} {v : Bool} {w : CmdWord} {done : Bool} (hidle : s.sd.phase = .idle)
    (h : controlStep s v w done = .next c) : c.sd.Follows c.cfg c.fb := by
  rcases controlStep_sd_cases h with hsd | ⟨-, -, -, hfb, hsd⟩
  · exact SignalRegs.follows_of_idle _ _ (hsd ▸ hidle)
  · rw [hsd, hfb, (controlStep_keeps_env h).1]
    exact beginBit_follows rfl _

/-- RESET_STATE sends no frame. -/
theorem State.resetWith_frameInv (cfg : Config) (inputs : List Input) (cycle : Nat) :
    (State.resetWith cfg inputs cycle).FrameInv :=
  (State.frameInv_iff _).mpr (SignalRegs.follows_of_idle _ _ rfl)

/-- One step keeps the byte under the cursor. -/
theorem step_frameInv {s t : State} (hs : s.Inv) (hf : s.FrameInv) (h : step s = .next t) : t.FrameInv := by
  rcases step_cases_of_inv hs h with ⟨-, rfl⟩ | ⟨-, hp, c, hc, rfl⟩ | ⟨-, hp, o, ho, rfl⟩
  · exact State.resetWith_frameInv ..
  · rw [State.frameInv_iff, merge_sd, if_pos hp]
    exact controlStep_follows hp hc
  · rw [State.frameInv_iff, merge_sd, if_neg hp, merge_cfg, merge_fb, txStep_cfg, txStep_fb]
    exact sdStep_follows hs.legal hp (s.frameInv_iff.mp hf) ho

/-- Settles O31, by the cases of a step: a frame begun on its first byte, or a running frame's SdStep. -/
theorem everyStepKeepsTheFrameUnderTheCursor : Obligations.EveryStepKeepsTheFrameUnderTheCursor :=
  fun _ _ => step_frameInv

/-- Wire position to LED, slot and bit: `position` is `32·led + 8·slot + (7 − bit)`, `slot < 4`, `bit < 8`
(10_state.md R30, 20_memory.md R49). -/
theorem SignalRegs.position_led (r : SignalRegs) : r.position / 32 = r.led.toNat := by
  have := r.slot.isLt
  unfold SignalRegs.position
  omega

theorem SignalRegs.position_slot (r : SignalRegs) : BitVec.ofNat 2 (r.position % 32 / 8) = r.slot := by
  have := r.slot.isLt
  rw [show r.position % 32 / 8 = r.slot.toNat by unfold SignalRegs.position; omega, BitVec.ofNat_toNat,
    BitVec.setWidth_eq]

theorem SignalRegs.position_bit (r : SignalRegs) : 7 - r.position % 8 = r.bit.toNat := by
  have := r.bit.isLt
  unfold SignalRegs.position
  omega

/-- Settles O57: the cursor's position names its LED, slot and bit, and the byte register holds the byte there. -/
theorem cursorNamesTheBitBeingSent : Obligations.CursorNamesTheBitBeingSent := by
  intro s hf hne
  rw [frameBit, SignalRegs.position_led, SignalRegs.position_slot, SignalRegs.position_bit, ← hf.byteLoaded hne,
    SignalRegs.curBit]

end Sys2Proof.Machine
end

section
/-! What writes the FrameBuffer (10_state.md R20, R41, 41_framebuffer.md R85). -/

namespace Sys2Proof.Machine

/-- FB_SET below N is the one command that writes `fb`. -/
theorem exec_fb_cases {i : Instr} {s t : State} (h : exec i s = .next t) :
    t.fb = s.fb ∨
      ∃ idx color, i = .fbSet idx color ∧ idx.toNat < s.cfg.n ∧ t.fb = s.fb.write idx.toNat color := by
  cases i with
  | fbSet idx color =>
    rcases execFbSet_cases h with ⟨hlt, rfl⟩ | ⟨-, rfl⟩
    · exact .inr ⟨idx, color, rfl, hlt, rfl⟩
    · exact .inl rfl
  | nop => cases h; exact .inl rfl
  | fbGet idx => rcases execFbGet_cases h with ⟨-, rfl⟩ | ⟨-, rfl⟩ <;> exact .inl rfl
  | tx => obtain ⟨-, rfl⟩ := execTx_cases h; exact .inl rfl
  | delay ms => cases h; exact .inl rfl
  | rdUptime => cases h; exact .inl rfl
  | rdStatus => cases h; exact .inl rfl

theorem delayStep_fb (s : State) : (delayStep s).fb = s.fb := by
  rcases delayStep_cases s with ⟨-, h⟩ | ⟨-, h⟩ <;> rw [h] <;> rfl

/-- ControlStep writes `fb` only where it accepts an FB_SET below N. -/
theorem controlStep_fb_cases {s c : State} {v : Bool} {w : CmdWord} {done : Bool}
    (h : controlStep s v w done = .next c) :
    c.fb = s.fb ∨
      (s.ctl = .ready ∧ v = true ∧
        ∃ idx color, decode s.cfg.uptimeW w = .ok (.fbSet idx color) ∧ idx.toNat < s.cfg.n ∧
          c.fb = s.fb.write idx.toNat color) := by
  rcases controlStep_cases h with ⟨hc, hv, ha⟩ | ⟨-, -, rfl⟩ | ⟨-, rfl⟩ | ⟨-, rfl⟩ | ⟨-, rfl⟩
  · rcases accept_cases ha with ⟨i, hd, he⟩ | ⟨e, -, rfl⟩
    · rcases exec_fb_cases he with hfb | ⟨idx, color, rfl, hlt, hfb⟩
      · exact .inl hfb
      · exact .inr ⟨hc, hv, idx, color, hd, hlt, hfb⟩
    · exact .inl rfl
  · exact .inl rfl
  · exact .inl (txStep_fb s done)
  · exact .inl (delayStep_fb s)
  · exact .inl rfl

/-- Settles O26: `fb` comes from ControlStep, which writes it in READY only, where INV-TX has the unit idle. -/
theorem onlyAnAcceptedFbSetWritesTheBuffer : Obligations.OnlyAnAcceptedFbSetWritesTheBuffer := by
  intro s t hs hr h hne
  obtain ⟨-, ⟨hr', -⟩ | ⟨-, o, c, -, hc, rfl⟩⟩ := step_cases h
  · simp [hr] at hr'
  · rcases controlStep_fb_cases hc with hfb | ⟨hready, hv, hset⟩
    · exact absurd hfb hne
    · exact ⟨hready, hs.idle_of_ctl (by simp [hready]), hv, hset⟩

end Sys2Proof.Machine
end

section
/-! RESET_STATE (10_state.md R44). -/

namespace Sys2Proof.Machine

/-- Settles O27: every register as `State.resetWith` gives it, and the invariants of a legal build. -/
theorem resetStateHoldsTheStatedValues : Obligations.ResetStateHoldsTheStatedValues := by
  rintro cfg inputs cycle s rfl
  exact ⟨FrameBuffer.read_nil, rfl, rfl, rfl, rfl, rfl, rfl, rfl, rfl, rfl, rfl, rfl, rfl, rfl, rfl, rfl, rfl,
    fun hl => State.resetWith_inv hl inputs cycle⟩

/-- Settles O29, by the two reset lemmas; the default build passes the check. -/
theorem invariantsHoldAtReset : Obligations.InvariantsHoldAtReset :=
  ⟨fun cfg inputs cycle hl => ⟨State.resetWith_inv hl inputs cycle, State.resetWith_frameInv cfg inputs cycle⟩,
    State.resetWith_inv Config.default_legal [] 0⟩

end Sys2Proof.Machine
end

section
/-! FB_SET run twice (41_framebuffer.md R85, R86, 20_memory.md R55). -/

namespace Sys2Proof.Machine

/-- A canonical FrameBuffer that a Color is written to twice is the one it is written to once: both are canonical, and
each index reads alike in both. -/
theorem FrameBuffer.write_write_same {n i : Nat} {fb : FrameBuffer} (h : fb.wf n = true) (hi : i < n) (c : Color) :
    (fb.write i c).write i c = fb.write i c := by
  have hw : (fb.write i c).wf n = true := FrameBuffer.write_wf h hi c
  refine FrameBuffer.eq_of_read_eq (FrameBuffer.write_wf hw hi c) hw fun k => ?_
  by_cases hk : k = i
  · subst hk
    rw [FrameBuffer.read_write_same hw, FrameBuffer.read_write_same h]
  · exact FrameBuffer.read_write_other hk c _

/-- FB_SET below N stores the Color and answers OK: the converse of the first case of `execFbSet_cases`. -/
theorem exec_fbSet_of_lt {idx : Index} {s : State} (h : idx.toNat < s.cfg.n) (color : Color) :
    exec (.fbSet idx color) s = .next { s.respond statusOk 0 with fb := s.fb.write idx.toNat color } :=
  if_pos (decide_eq_true h)

/-- FB_SET past N enters the index fault: the converse of the second case. -/
theorem exec_fbSet_of_le {idx : Index} {s : State} (h : s.cfg.n ≤ idx.toNat) (color : Color) :
    exec (.fbSet idx color) s = .next (s.raise .indexOutOfRange (encode (.fbSet idx color))) :=
  if_neg (by simpa [Config.inRange] using h)

/-- Settles O23: below N the second write stores what is stored, and past N the same fault is recorded again. -/
theorem fbSetTwiceIsFbSetOnce : Obligations.FbSetTwiceIsFbSetOnce := by
  intro idx color s t hwf h
  rcases execFbSet_cases h with ⟨hlt, rfl⟩ | ⟨hle, rfl⟩
  · rw [exec_fbSet_of_lt]
    · simp only [FrameBuffer.write_write_same hwf hlt]
      rfl
    · exact hlt
  · exact exec_fbSet_of_le (s := s.raise _ _) hle color

end Sys2Proof.Machine
end

section
/-! The channels of a packed Color (20_memory.md R48, R52). -/

namespace Sys2Proof

variable (r g b w : Byte)

@[simp] theorem chan_packColor_w : chan (packColor r g b w) .w = w := BitVec.extractLsb'_append_eq_right

@[simp] theorem chan_packColor_b : chan (packColor r g b w) .b = b :=
  (BitVec.extractLsb'_append_eq_of_le (by decide)).trans BitVec.extractLsb'_append_eq_right

@[simp] theorem chan_packColor_g : chan (packColor r g b w) .g = g :=
  (BitVec.extractLsb'_append_eq_of_le (by decide)).trans <|
    (BitVec.extractLsb'_append_eq_of_le (by decide)).trans BitVec.extractLsb'_append_eq_right

@[simp] theorem chan_packColor_r : chan (packColor r g b w) .r = r :=
  (BitVec.extractLsb'_append_eq_of_le (by decide)).trans <|
    (BitVec.extractLsb'_append_eq_of_le (by decide)).trans BitVec.extractLsb'_append_eq_left

/-- The four slices are adjacent, so they join, from the top, into the whole word. -/
theorem packColor_chan (c : Color) : packColor (chan c .r) (chan c .g) (chan c .b) (chan c .w) = c := by
  have hrg : chan c .r ++ chan c .g = c.extractLsb' 16 16 := BitVec.extractLsb'_append_extractLsb'_eq_extractLsb' rfl
  have hrgb : c.extractLsb' 16 16 ++ chan c .b = c.extractLsb' 8 24 :=
    BitVec.extractLsb'_append_extractLsb'_eq_extractLsb' rfl
  have hrgbw : c.extractLsb' 8 24 ++ chan c .w = c.extractLsb' 0 32 :=
    BitVec.extractLsb'_append_extractLsb'_eq_extractLsb' rfl
  rw [packColor, hrg, hrgb, hrgbw, BitVec.extractLsb'_eq_self]

/-- Settles O6: unpacking, packing again, and the slices as `chan` has them. -/
theorem packedColorHoldsItsChannels : Obligations.PackedColorHoldsItsChannels :=
  ⟨fun r g b w => ⟨chan_packColor_r r g b w, chan_packColor_g r g b w, chan_packColor_b r g b w,
      chan_packColor_w r g b w⟩,
    packColor_chan, fun _ => ⟨rfl, rfl, rfl, rfl⟩⟩

end Sys2Proof
end

section
/-! The frame of the commands that only answer (20_memory.md R55). -/

namespace Sys2Proof.Machine

/-- NOP, RD_UPTIME, RD_STATUS and FB_GET below N each answer OK with some data, and do nothing else. -/
theorem exec_reading_eq_respond {i : Instr} {s t : State}
    (hi : i = .nop ∨ i = .rdUptime ∨ i = .rdStatus ∨ ∃ idx : Index, i = .fbGet idx ∧ idx.toNat < s.cfg.n)
    (h : exec i s = .next t) : ∃ data, t = s.respond statusOk data := by
  rcases hi with rfl | rfl | rfl | ⟨idx, rfl, hlt⟩
  · cases h; exact ⟨0, rfl⟩
  · cases h; exact ⟨s.uptime, rfl⟩
  · cases h; exact ⟨s.statusWord, rfl⟩
  · rcases execFbGet_cases h with ⟨-, rfl⟩ | ⟨hle, -⟩
    · exact ⟨s.fb.read idx.toNat, rfl⟩
    · exact absurd hlt hle.not_gt

/-- Settles O18: `respond` writes the response register alone. -/
theorem readingCommandsChangeOnlyTheResponse : Obligations.ReadingCommandsChangeOnlyTheResponse := by
  intro i s t hi h
  obtain ⟨data, rfl⟩ := exec_reading_eq_respond hi h
  exact ⟨rfl, fun _ => rfl⟩

end Sys2Proof.Machine
end

section
/-! Decoding and encoding are inverse to each other on the well-formed commands (30_encoding.md R62 to R66). -/

namespace Sys2Proof

/-- A word whose IDX and DATA are zero is any command of format Z. -/
@[simp] theorem decodeZ_packWord_zero (op : BitVec 4) (i : Instr) : decodeZ (packWord op 0#16 0#32) i = .ok i :=
  if_pos ⟨idxField_packWord .., dataField_packWord ..⟩

/-- A word with a legal opcode and RSV zero passes the first two checks, and the fields of `encode i` are `i`'s. -/
theorem decode_encode {uptimeW : Nat} {i : Instr} (h : i.wf uptimeW = true) : decode uptimeW (encode i) = .ok i := by
  cases i with
  | nop => simp [decode, encode]
  | fbSet idx color => simp [decode, encode]
  | fbGet idx => simp [decode, encode]
  | tx => simp [decode, encode]
  | delay ms =>
    have hms : ¬ 2 ^ uptimeW ≤ ms.toNat := Nat.not_le.mpr (of_decide_eq_true h)
    simp [decode, encode, hms]
  | rdUptime => simp [decode, encode]
  | rdStatus => simp [decode, encode]

/-- Settles O1, by cases on the command: decode reads back the fields that encode packed. -/
theorem decodeOfEncodeIsTheCommand : Obligations.DecodeOfEncodeIsTheCommand :=
  fun _ _ h => decode_encode h

/-- A decoded word has RSV zero, so it is the word of its other fields, and those are the operands of the command. -/
theorem encode_eq_and_wf_of_decode {uptimeW : Nat} {w : CmdWord} {i : Instr} (h : decode uptimeW w = .ok i) :
    encode i = w ∧ i.wf uptimeW = true := by
  obtain ⟨hrsv, hcases⟩ := decode_ok_cases h
  have hw : packWord (opField w) (idxField w) (dataField w) = w := packWord_fields hrsv
  rcases hcases with ⟨ho, hi, hd, rfl⟩ | ⟨ho, rfl⟩ | ⟨ho, hd, rfl⟩ | ⟨ho, hi, hd, rfl⟩ | ⟨ho, hi, hlt, rfl⟩ |
    ⟨ho, hi, hd, rfl⟩ | ⟨ho, hi, hd, rfl⟩
  · rw [ho, hi, hd] at hw; exact ⟨hw, rfl⟩
  · rw [ho] at hw; exact ⟨hw, rfl⟩
  · rw [ho, hd] at hw; exact ⟨hw, rfl⟩
  · rw [ho, hi, hd] at hw; exact ⟨hw, rfl⟩
  · rw [ho, hi] at hw; exact ⟨hw, decide_eq_true hlt⟩
  · rw [ho, hi, hd] at hw; exact ⟨hw, rfl⟩
  · rw [ho, hi, hd] at hw; exact ⟨hw, rfl⟩

/-- Settles O2, by the cases of a word that decodes. -/
theorem decodedWordIsTheCommandsEncoding : Obligations.DecodedWordIsTheCommandsEncoding :=
  fun _ _ _ => encode_eq_and_wf_of_decode

/-- Both directions at once: a word decodes to the well-formed command whose encoding it is. -/
theorem decode_eq_ok_iff {uptimeW : Nat} {w : CmdWord} {i : Instr} :
    decode uptimeW w = .ok i ↔ encode i = w ∧ i.wf uptimeW = true :=
  ⟨encode_eq_and_wf_of_decode, fun ⟨hw, hwf⟩ => hw ▸ decode_encode hwf⟩

end Sys2Proof
end

section
/-! The words of the opcode map's rows are the encodings of the commands (30_encoding.md R64). -/

namespace Sys2Proof

/-- A field that the mask keeps whole is the match value's. -/
theorem extractLsb'_eq_of_masked {w m p : CmdWord} (h : w &&& m = p) {start len : Nat}
    (hm : m.extractLsb' start len = BitVec.allOnes len) : w.extractLsb' start len = p.extractLsb' start len := by
  rw [← h, BitVec.extractLsb'_and, hm, BitVec.and_allOnes]

/-- Every command's word has the form of its row. -/
theorem encode_rowForm (i : Instr) : Laws.RowForm.Statement i := by
  cases i with
  | nop => exact Laws.RowForm.nop
  | fbSet idx color => exact Laws.RowForm.fbSet idx color
  | fbGet idx => exact Laws.RowForm.fbGet idx
  | tx => exact Laws.RowForm.tx
  | delay ms => exact Laws.RowForm.delay ms
  | rdUptime => exact Laws.RowForm.rdUptime
  | rdStatus => exact Laws.RowForm.rdStatus

/-- The condition a mask cannot express is all that well-formedness asks. -/
theorem Instr.wf_iff (uptimeW : Nat) (i : Instr) :
    i.wf uptimeW = true ↔ (i.opcode = 4 → (dataField (encode i)).toNat < 2 ^ uptimeW) := by
  cases i <;> simp [Instr.wf, Instr.opcode, encode]

/-- A word with the form of a row is the word of a command of that row: the mask fixes RSV and the fields the command
does not use, and the others are its operands. -/
theorem exists_encode_eq_of_row {row : OpcodeRow} (hrow : row ∈ opcodeTable) {w : CmdWord}
    (h : w &&& row.mask = row.pattern) : ∃ i, encode i = w ∧ i.opcode = row.op := by
  have whole {p : CmdWord} (hw : w &&& 0xFFFFFFFFFFFFFFFF = p) : p = w := hw.symm.trans BitVec.and_allOnes
  simp only [opcodeTable, List.mem_cons, List.not_mem_nil, or_false] at hrow
  rcases hrow with rfl | rfl | rfl | rfl | rfl | rfl | rfl
  · exact ⟨.nop, whole h, rfl⟩
  · have hop : opField w = 1 := extractLsb'_eq_of_masked h (by decide)
    have hrsv : rsvField w = 0 := extractLsb'_eq_of_masked h (by decide)
    exact ⟨.fbSet (idxField w) (dataField w), by rw [encode, ← hop, packWord_fields hrsv], rfl⟩
  · have hop : opField w = 2 := extractLsb'_eq_of_masked h (by decide)
    have hrsv : rsvField w = 0 := extractLsb'_eq_of_masked h (by decide)
    have hdata : dataField w = 0 := extractLsb'_eq_of_masked h (by decide)
    exact ⟨.fbGet (idxField w), by rw [encode, ← hop, ← hdata, packWord_fields hrsv], rfl⟩
  · exact ⟨.tx, whole h, rfl⟩
  · have hop : opField w = 4 := extractLsb'_eq_of_masked h (by decide)
    have hrsv : rsvField w = 0 := extractLsb'_eq_of_masked h (by decide)
    have hidx : idxField w = 0 := extractLsb'_eq_of_masked h (by decide)
    exact ⟨.delay (dataField w), by rw [encode, ← hop, ← hidx, packWord_fields hrsv], rfl⟩
  · exact ⟨.rdUptime, whole h, rfl⟩
  · exact ⟨.rdStatus, whole h, rfl⟩

/-- Settles O3: a decoded word is its command's encoding, which has the row's form, and a word of a row's form is the
encoding of a command, which decodes when it is well formed. -/
theorem decodeAcceptsExactlyTheRowsOfTheMap : Obligations.DecodeAcceptsExactlyTheRowsOfTheMap := by
  intro uptimeW w n
  constructor
  · rintro ⟨i, hdec, rfl⟩
    obtain ⟨rfl, hwf⟩ := decode_eq_ok_iff.mp hdec
    obtain ⟨row, hrow, hop, hmask⟩ := encode_rowForm i
    exact ⟨row, hrow, hop, hmask, (Instr.wf_iff uptimeW i).mp hwf⟩
  · rintro ⟨row, hrow, rfl, hmask, hdata⟩
    obtain ⟨i, rfl, hop⟩ := exists_encode_eq_of_row hrow hmask
    exact ⟨i, decode_encode ((Instr.wf_iff uptimeW i).mpr (hop ▸ hdata)), hop⟩

/-- Settles O4, by computing the nine fixed words. -/
theorem specWordsDecodeToTheirCommands : Obligations.SpecWordsDecodeToTheirCommands := by
  unfold Obligations.SpecWordsDecodeToTheirCommands
  decide

end Sys2Proof
end

section
/-! The assembler's words (30_encoding.md R69). -/

namespace Sys2Proof.Machine

/-- The assembler refuses an operand that does not fit, DELAY's past UPTIME_W bits among them. -/
theorem AsmLine.instr_wf {uptimeW : Nat} {l : AsmLine} {i : Instr} (h : l.instr uptimeW = some i) :
    i.wf uptimeW = true := by
  cases l with
  | delay ms =>
    obtain ⟨⟨hw, h32⟩, hi⟩ := Option.ite_none_right_eq_some.mp h
    cases hi
    refine decide_eq_true ?_
    have hpos : 0 < 2 ^ uptimeW := Nat.two_pow_pos _
    rw [BitVec.toNat_ofNat, Nat.mod_eq_of_lt h32]
    omega
  | nop => cases h; rfl
  | fbSetChannels idx r g b w => obtain ⟨-, hi⟩ := Option.ite_none_right_eq_some.mp h; cases hi; rfl
  | fbSetPacked idx color => obtain ⟨-, hi⟩ := Option.ite_none_right_eq_some.mp h; cases hi; rfl
  | fbGet idx => obtain ⟨-, hi⟩ := Option.ite_none_right_eq_some.mp h; cases hi; rfl
  | tx => cases h; rfl
  | rdUptime => cases h; rfl
  | rdStatus => cases h; rfl

/-- Settles O5: the word is the encoding of the line's command, which is well formed. -/
theorem assembledLineDecodesToItsCommand : Obligations.AssembledLineDecodesToItsCommand := by
  intro uptimeW l w hw
  obtain ⟨i, hi, rfl⟩ := Option.map_eq_some_iff.mp hw
  exact ⟨i, hi, decode_encode (AsmLine.instr_wf hi)⟩

end Sys2Proof.Machine
end

section
/-! FB_CLEAR (30_encoding.md R70, 70_reset_and_hazards.md R143). -/

namespace Sys2Proof.Machine

/-- One command run, and then the others. -/
theorem execAll_cons_of_next {i : Instr} {s t : State} (h : exec i s = .next t) (rest : List Instr) :
    execAll (i :: rest) s = execAll rest t := by
  rw [execAll, h]

/-- Writing 0 darkens its index and lights none. -/
theorem FrameBuffer.read_write_zero {n i j : Nat} {fb : FrameBuffer} (h : fb.wf n = true)
    (hj : j = i ∨ fb.read j = 0) : (fb.write i 0).read j = 0 := by
  by_cases hji : j = i
  · exact hji ▸ FrameBuffer.read_write_same h i 0
  · rw [FrameBuffer.read_write_other hji]
    exact hj.resolve_left hji

/-- FB_SETs of 0 at indices below N all complete; after them the indices are dark, and so is what was dark before. -/
theorem execAll_darken {indices : List Nat} {s : State} (hn : s.cfg.n ≤ 65535) (hwf : s.fb.wf s.cfg.n = true)
    (hlt : ∀ i ∈ indices, i < s.cfg.n) :
    ∃ t, execAll (indices.map fun i => .fbSet (BitVec.ofNat 16 i) 0) s = some t ∧ t.fb.wf s.cfg.n = true ∧
      ∀ j, j ∈ indices ∨ s.fb.read j = 0 → t.fb.read j = 0 := by
  induction indices generalizing s with
  | nil => exact ⟨s, rfl, hwf, fun j hj => hj.resolve_left List.not_mem_nil⟩
  | cons i rest ih =>
    obtain ⟨hi, hrest⟩ := List.forall_mem_cons.mp hlt
    have hidx : (BitVec.ofNat 16 i).toNat = i := by
      rw [BitVec.toNat_ofNat, Nat.mod_eq_of_lt (by omega)]
    have hset := exec_fbSet_of_lt (idx := BitVec.ofNat 16 i) (s := s) (hidx.symm ▸ hi) 0
    rw [hidx] at hset
    obtain ⟨t, ht, htwf, hdark⟩ := ih (s := { s.respond statusOk 0 with fb := s.fb.write i 0 }) hn
      (FrameBuffer.write_wf hwf hi 0) hrest
    refine ⟨t, (execAll_cons_of_next hset _).trans ht, htwf, fun j hj => hdark j ?_⟩
    rw [List.mem_cons, or_right_comm] at hj
    exact hj.symm.imp_right (FrameBuffer.read_write_zero hwf)

/-- Settles O25: the commands' indices are all of those below N, and from N on the canonical FrameBuffer reads 0. -/
theorem fbClearDarkensEveryLed : Obligations.FbClearDarkensEveryLed := by
  intro s hs
  obtain ⟨⟨-, hn⟩, -⟩ := (Config.legal_iff s.cfg).mp hs.legal
  obtain ⟨t, ht, hwf, hdark⟩ := execAll_darken hn hs.fbCanonical fun _ => List.mem_range.mp
  have hzero : ∀ j, t.fb.read j = 0 := by
    intro j
    rcases Nat.lt_or_ge j s.cfg.n with hlt | hle
    · exact hdark j (.inl (List.mem_range.mpr hlt))
    · exact FrameBuffer.read_above hwf hle
  exact ⟨t, ht, hzero, FrameBuffer.eq_nil_of_read_eq_zero hwf hzero⟩

end Sys2Proof.Machine
end

section
/-! The words of an opcode that decode to no command (30_encoding.md R63, R65). -/

namespace Sys2Proof

theorem decodeZ_ne_illegalOpcode (w : CmdWord) (i : Instr) : decodeZ w i ≠ .error .illegalOpcode := by
  unfold decodeZ
  split <;> nofun

/-- Opcodes from 7 on are illegal, and of the others decode reports only reserved bits. -/
theorem decode_illegalOpcode_iff (uptimeW : Nat) (w : CmdWord) :
    decode uptimeW w = .error .illegalOpcode ↔ 7 ≤ (opField w).toNat := by
  refine ⟨fun h => ?_, fun h => if_pos h⟩
  by_contra hop
  rw [decode, if_neg hop] at h
  split at h
  · cases h
  · split at h <;> rename_i ho
    · exact decodeZ_ne_illegalOpcode _ _ h
    · cases h
    · split at h <;> cases h
    · exact decodeZ_ne_illegalOpcode _ _ h
    · split at h
      · cases h
      · split at h <;> cases h
    · exact decodeZ_ne_illegalOpcode _ _ h
    · exact decodeZ_ne_illegalOpcode _ _ h
    · simp only [imp_false] at *
      omega

/-- A word of a legal opcode that is no command has reserved bits set. -/
theorem decode_reservedBits_of_ne_ok {uptimeW : Nat} {w : CmdWord} (hop : (opField w).toNat < 7)
    (h : ∀ i, decode uptimeW w ≠ .ok i) : decode uptimeW w = .error .reservedBits := by
  cases hd : decode uptimeW w with
  | ok i => exact absurd hd (h i)
  | error e =>
    cases e with
    | illegalOpcode => exact absurd ((decode_illegalOpcode_iff uptimeW w).mp hd) hop.not_ge
    | reservedBits => rfl

/-- RSV, IDX and DATA are the low 60 bits. -/
theorem low_bits_eq_zero {w : CmdWord} (hr : rsvField w = 0) (hi : idxField w = 0) (hd : dataField w = 0) :
    w.extractLsb' 0 60 = 0 := by
  have hrest : rsvField w ++ idxField w = w.extractLsb' 32 28 := BitVec.extractLsb'_append_extractLsb'_eq_extractLsb' rfl
  have hall : w.extractLsb' 32 28 ++ dataField w = w.extractLsb' 0 60 :=
    BitVec.extractLsb'_append_extractLsb'_eq_extractLsb' rfl
  rw [← hall, ← hrest, hr, hi, hd]
  rfl

/-- A command of format Z is its opcode alone: any other bit set is rejected (30_encoding.md R63). -/
theorem decode_formatZ_rejects {uptimeW : Nat} {w : CmdWord}
    (hop : opField w = 0 ∨ opField w = 3 ∨ opField w = 5 ∨ opField w = 6) (hlow : w.extractLsb' 0 60 ≠ 0) :
    decode uptimeW w = .error .reservedBits := by
  refine decode_reservedBits_of_ne_ok (by rcases hop with h | h | h | h <;> rw [h] <;> decide) fun i hok => hlow ?_
  obtain ⟨hr, hcases⟩ := decode_ok_cases hok
  rcases hcases with ⟨-, hi, hd, -⟩ | ⟨ho, -⟩ | ⟨ho, -⟩ | ⟨-, hi, hd, -⟩ | ⟨ho, -⟩ | ⟨-, hi, hd, -⟩ | ⟨-, hi, hd, -⟩
  · exact low_bits_eq_zero hr hi hd
  · simp [ho] at hop
  · simp [ho] at hop
  · exact low_bits_eq_zero hr hi hd
  · simp [ho] at hop
  · exact low_bits_eq_zero hr hi hd
  · exact low_bits_eq_zero hr hi hd

/-- A word of DELAY has RSV and IDX clear and DATA within UPTIME_W bits (30_encoding.md R63, R65). -/
theorem decode_delay_rejects {uptimeW : Nat} {w : CmdWord} (hop : opField w = 4)
    (h : rsvField w ≠ 0 ∨ idxField w ≠ 0 ∨ 2 ^ uptimeW ≤ (dataField w).toNat) :
    decode uptimeW w = .error .reservedBits := by
  refine decode_reservedBits_of_ne_ok (by rw [hop]; decide) fun i hok => ?_
  obtain ⟨hr, hcases⟩ := decode_ok_cases hok
  obtain ⟨-, hi, hlt, -⟩ :
      opField w = 4 ∧ idxField w = 0 ∧ (dataField w).toNat < 2 ^ uptimeW ∧ i = .delay (dataField w) := by
    simpa [hop] using hcases
  rcases h with h | h | h
  · exact h hr
  · exact h hi
  · exact h.not_gt hlt

end Sys2Proof
end

section
/-! Runs without reset, and the ticks delivered in them (40_timebase.md R76). -/

namespace Sys2Proof.Machine

variable {s t u : State} {k : Nat}

theorem State.NoResetFor.head (h : s.NoResetFor (k + 1)) : s.input.rst = false := h 0 (Nat.succ_pos k)

theorem State.NoResetFor.tail (h : s.NoResetFor (k + 1)) (hu : step s = .next u) : u.NoResetFor k := by
  intro j hj
  rw [step_inputAt hu]
  exact h (j + 1) (Nat.succ_lt_succ hj)

theorem State.NoResetFor.mono {j : Nat} (h : s.NoResetFor k) (hj : j ≤ k) : s.NoResetFor j :=
  fun i hi => h i (hi.trans_le hj)

/-- The first input after a run that the no-reset premise outlasts. -/
theorem State.NoResetFor.at_end (h : s.NoResetFor (k + 1)) (ht : StepsTo k s t) : t.input.rst = false := by
  rw [State.input, stepsTo_inputAt ht]
  exact h k (Nat.lt_succ_self k)

/-- The ticks of a run are its first step's and those of the run after it. -/
theorem ticksIn_succ (hu : step s = .next u) (k : Nat) : s.ticksIn (k + 1) = s.input.tick.toNat + u.ticksIn k := by
  have htail : ∀ j, (s.inputAt (j + 1)).tick = (u.inputAt j).tick := fun j => by rw [step_inputAt hu]
  simp only [State.ticksIn, List.range_succ_eq_map, List.filter_cons, List.filter_map, Function.comp_def, htail,
    State.input]
  cases (s.inputAt 0).tick
  · simp
  · simp [Nat.add_comm]

end Sys2Proof.Machine
end

section
/-! What a step does with the tick (40_timebase.md R72 to R75). -/

namespace Sys2Proof.Machine

variable {s t : State}

theorem State.masked_of_idle (h : s.sd.phase = .idle) : s.masked = false := by simp [State.masked, h]

/-- A step without reset writes the TimeBase's registers, and the wrap clears `deadline` after every other writer
(10_state.md R43). -/
theorem step_timeBase (hr : s.input.rst = false) (h : step s = .next t) :
    t.uptime = (timeBaseStep s s.input.tick s.masked).uptime ∧
      t.tickPending = (timeBaseStep s s.input.tick s.masked).tickPending ∧
      ((timeBaseStep s s.input.tick s.masked).wrapped = true → t.deadline = 0) := by
  obtain ⟨-, ⟨hr', -⟩ | ⟨-, o, c, -, -, rfl⟩⟩ := step_cases h
  · simp [hr] at hr'
  · exact ⟨rfl, rfl, fun hw => if_pos hw⟩

/-- The tick of a step without reset: held in the masked window; outside it applied, at the top value as a wrap; or none
there to apply (40_timebase.md R72, R74). -/
theorem step_tick_cases (hu : s.uptime.toNat < 2 ^ s.cfg.uptimeW) (hr : s.input.rst = false) (h : step s = .next t) :
    (s.masked = true ∧ t.uptime = s.uptime ∧ t.tickPending = (s.tickPending || s.input.tick)) ∨
      (s.masked = false ∧ (s.tickPending || s.input.tick) = true ∧ s.uptime.toNat = 2 ^ s.cfg.uptimeW - 1 ∧
        t.uptime = 0 ∧ t.deadline = 0 ∧ t.tickPending = (s.tickPending && s.input.tick)) ∨
      (s.masked = false ∧ (s.tickPending || s.input.tick) = true ∧ s.uptime.toNat + 1 < 2 ^ s.cfg.uptimeW ∧
        t.uptime.toNat = s.uptime.toNat + 1 ∧ t.tickPending = (s.tickPending && s.input.tick)) ∨
      (s.masked = false ∧ s.tickPending = false ∧ s.input.tick = false ∧ t.uptime = s.uptime ∧
        t.tickPending = false) := by
  obtain ⟨hup, hpend, hdl⟩ := step_timeBase hr h
  have hw : s.cfg.uptimeW ≤ 32 := Config.uptimeW_le (step_cases h).1
  rcases timeBaseStep_cases s s.input.tick s.masked with ⟨hm, htb⟩ | ⟨hm, hany, htb⟩ | ⟨hm, hp, htk, htb⟩ <;>
    rw [htb] at hup hpend hdl
  · exact .inl ⟨hm, hup, hpend⟩
  · rcases tickApply_cases hw hu with ⟨htop, ha⟩ | ⟨hlt, hsucc, ha⟩ <;> rw [ha] at hup hdl
    · exact .inr (.inl ⟨hm, hany, htop, hup, hdl rfl, hpend⟩)
    · exact .inr (.inr (.inl ⟨hm, hany, hlt, hup ▸ hsucc, hpend⟩))
  · exact .inr (.inr (.inr ⟨hm, hp, htk, hup, hpend⟩))

/-- Settles O34, by the cases of a step's tick. -/
theorem tickIsHeldOrAppliedOnce : Obligations.TickIsHeldOrAppliedOnce := by
  intro s t hs hr h
  rcases step_tick_cases hs.uptimeFits hr h with ⟨hm, hup, hpend⟩ | ⟨hm, hany, htop, hup, hdl, hpend⟩ |
    ⟨hm, hany, hlt, hup, hpend⟩ | ⟨hm, hp, htk, hup, hpend⟩
  · simp [hm, hup, hpend]
  · refine ⟨by simp [hm], fun _ _ => ⟨hpend, fun _ => ⟨hup, fun _ => hdl⟩, fun hne => absurd htop hne⟩, ?_⟩
    intro _ hp htk
    simp [hp, htk] at hany
  · refine ⟨by simp [hm], fun _ _ => ⟨hpend, fun htop => by omega, fun _ => hup⟩, ?_⟩
    intro _ hp htk
    simp [hp, htk] at hany
  · simp [hm, hp, htk, hup, hpend]

/-- Settles O35: the cases of a step's tick, and no command writes the counter. -/
theorem uptimeRisesByOneOrWraps : Obligations.UptimeRisesByOneOrWraps := by
  refine ⟨fun s t hs hr h => ?_, fun i s t h => (exec_keeps_timeBase h).2.1⟩
  rcases step_tick_cases hs.uptimeFits hr h with ⟨-, hup, -⟩ | ⟨-, -, htop, hup, hdl, -⟩ | ⟨-, -, -, hup, -⟩ |
    ⟨-, -, -, hup, -⟩
  · exact .inl hup
  · exact .inr (.inr ⟨htop, hup, fun _ => hdl⟩)
  · exact .inr (.inl hup)
  · exact .inl hup

/-- Of a held and an arriving tick, one at least there: one is applied, and the other, if there, is held. -/
theorem held_add_one (held tick : Bool) (h : (held || tick) = true) :
    1 + (held && tick).toNat = held.toNat + tick.toNat := by
  revert held tick
  decide

/-- Settles O36: a masked step counts what `or` keeps of the two ticks, an unmasked one applies the first and holds the
second. -/
theorem onlyASecondMaskedTickIsLost : Obligations.OnlyASecondMaskedTickIsLost := by
  intro s t hs hr h hlt
  rcases step_tick_cases hs.uptimeFits hr h with ⟨hm, hup, hpend⟩ | ⟨-, -, htop, -⟩ |
    ⟨hm, hany, -, hup, hpend⟩ | ⟨hm, hp, htk, hup, hpend⟩
  · rw [hup, hpend, hm]
    cases s.tickPending <;> simp
  · omega
  · have := held_add_one _ _ hany
    rw [hup, hpend, hm, if_neg (by simp)]
    omega
  · simp [hup, hpend, hm, hp, htk]

/-- No step counts or holds more than the tick that arrives in it: a wrap and a second masked tick count less. -/
theorem step_uptime_le (hu : s.uptime.toNat < 2 ^ s.cfg.uptimeW) (hr : s.input.rst = false) (h : step s = .next t) :
    t.uptime.toNat + t.tickPending.toNat ≤ s.uptime.toNat + s.tickPending.toNat + s.input.tick.toNat := by
  rcases step_tick_cases hu hr h with ⟨-, hup, hpend⟩ | ⟨-, hany, -, hup, -, hpend⟩ | ⟨-, hany, -, hup, hpend⟩ |
    ⟨-, hp, htk, hup, hpend⟩
  · have : (s.tickPending || s.input.tick).toNat ≤ s.tickPending.toNat + s.input.tick.toNat := by
      cases s.tickPending <;> simp
    rw [hup, hpend]
    omega
  · have := held_add_one _ _ hany
    rw [hup, hpend, show (0 : Word).toNat = 0 from rfl]
    omega
  · have := held_add_one _ _ hany
    rw [hup, hpend]
    omega
  · simp [hup, hpend, hp, htk]

/-- Settles O37, by induction along the run. -/
theorem uptimeRisesOnlyByTicks : Obligations.UptimeRisesOnlyByTicks := by
  intro k
  induction k with
  | zero => rintro s t - - rfl; exact Nat.le_add_right ..
  | succ k ih =>
    rintro s t hs hnr ⟨u, hu, ht⟩
    have hstep := step_uptime_le hs.uptimeFits hnr.head hu
    have hrun := ih u t (step_inv hs hu) (hnr.tail hu) ht
    have hticks := ticksIn_succ hu k
    omega

end Sys2Proof.Machine
end

section
/-! A step beside an idle SignalDriver: an accepted command, and a waiting DELAY (43_port_and_status.md R114,
40_timebase.md R77, R78). -/

namespace Sys2Proof.Machine

variable {s : State} {w : CmdWord}

/-- The units' step beside an idle SignalDriver, outside the masked window. -/
theorem step_of_idle {c : State} (hl : s.cfg.legal = true) (hr : s.input.rst = false) (hidle : s.sd.phase = .idle)
    (hc : controlStep s s.input.cmdValid s.input.cmdWord false = .next c) :
    step s = .next (merge s (timeBaseStep s s.input.tick false) s.sd c) := by
  rw [step_of_units hl hr (sdStep_idle hidle _) hc, State.masked_of_idle hidle]

/-- The step that accepts a command's word is the command's effect, merged (43_port_and_status.md R114). -/
theorem step_of_accepts {i : Instr} {c : State} (ha : s.Accepts w) (hd : decode s.cfg.uptimeW w = .ok i)
    (he : exec i s = .next c) : step s = .next (merge s (timeBaseStep s s.input.tick false) s.sd c) := by
  refine step_of_idle ha.legal ha.noReset ha.idle ?_
  simp [controlStep, ha.ready, ha.valid, ha.word, accept, hd, he]

theorem step_of_busyDelay (hs : s.Inv) (hr : s.input.rst = false) (hc : s.ctl = .busyDelay) :
    step s = .next (merge s (timeBaseStep s s.input.tick false) s.sd (delayStep s)) :=
  step_of_idle hs.legal hr (hs.idle_of_ctl (by simp [hc])) (by simp [controlStep, hc])

/-- A DELAY whose deadline is reached in the pre-state completes (40_timebase.md R78). -/
theorem step_completes_delay (hs : s.Inv) (hr : s.input.rst = false) (hc : s.ctl = .busyDelay)
    (hreached : s.deadline.toNat ≤ s.uptime.toNat) :
    ∃ t, step s = .next t ∧ t.ctl = .ready ∧ t.rsp = ⟨true, 0, 0⟩ := by
  rcases delayStep_cases s with ⟨-, hd⟩ | ⟨hlt, -⟩
  · exact ⟨_, step_of_busyDelay hs hr hc, by simp [hd], by simp [hd, statusOk]⟩
  · omega

/-- A DELAY whose deadline is ahead waits on, and its step writes the TimeBase's registers and `rsp_valid` alone; the
counter is short of its top value, so no wrap clears the deadline. -/
theorem step_delay_waits (hs : s.Inv) (hr : s.input.rst = false) (hc : s.ctl = .busyDelay)
    (hahead : s.uptime.toNat < s.deadline.toNat) :
    ∃ t, step s = .next t ∧ t.ctl = .busyDelay ∧ t.deadline = s.deadline ∧ t.rsp = { s.rsp with valid := false } ∧
      t.fb = s.fb ∧ t.sd = s.sd := by
  have hfits := hs.deadlineFits
  have hnowrap : (timeBaseStep s s.input.tick false).wrapped = false := by
    rcases timeBaseStep_cases s s.input.tick false with ⟨-, h⟩ | ⟨-, -, h⟩ | ⟨-, -, -, h⟩ <;> rw [h]
    rcases tickApply_cases (Config.uptimeW_le hs.legal) hs.uptimeFits with ⟨htop, -⟩ | ⟨-, -, ha⟩
    · omega
    · rw [ha]
  rcases delayStep_cases s with ⟨hle, -⟩ | ⟨-, hd⟩
  · omega
  · exact ⟨_, step_of_busyDelay hs hr hc, by simp [hd, hc], by simp [hd, hnowrap], by simp [hd], by simp [hd],
      by simp [hd]⟩

/-- Settles O39: the comparison of the pre-state tells the two cases of a waiting DELAY's step apart. -/
theorem delayCompletesWhenUptimeReachesTheDeadline : Obligations.DelayCompletesWhenUptimeReachesTheDeadline := by
  intro s hs hr hc
  rcases Nat.lt_or_ge s.uptime.toNat s.deadline.toNat with hahead | hreached
  · obtain ⟨t, ht, hctl, -, hrsp, -⟩ := step_delay_waits hs hr hc hahead
    exact ⟨t, ht, fun hle => absurd hle hahead.not_ge, fun _ => ⟨hctl, hrsp, by simp [State.output, hctl]⟩⟩
  · obtain ⟨t, ht, hctl, hrsp⟩ := step_completes_delay hs hr hc hreached
    exact ⟨t, ht, fun _ => ⟨hctl, hrsp, by simp [State.output, hctl]⟩, fun hlt => absurd hlt hreached.not_gt⟩

/-- Settles O40: the waiting step whatever is offered, and the reset step. -/
theorem nothingButResetCancelsADelay : Obligations.NothingButResetCancelsADelay := by
  intro s t hs hc hahead h
  constructor
  · intro hr
    obtain ⟨t', ht', hctl, -, -, hfb, hsd⟩ := step_delay_waits hs hr hc hahead
    obtain rfl : t' = t := Host.Outcome.next.inj (ht'.symm.trans h)
    exact ⟨hctl, hfb, hsd⟩
  · intro hr
    rw [step_of_reset hs.legal hr] at h
    cases h
    rfl

/-- The step that accepts a DELAY: `deadline` takes the W-bit sum and the counter stays or rises, or the counter wraps and
both are 0 (40_timebase.md R77, R74). -/
theorem step_accepts_delay {ms : Word} (hs : s.Inv) (ha : s.Accepts w)
    (hd : decode s.cfg.uptimeW w = .ok (.delay ms)) :
    ∃ u, step s = .next u ∧ u.Inv ∧ u.ctl = .busyDelay ∧ u.rsp.valid = false ∧
      ((u.deadline.toNat = (s.uptime.toNat + ms.toNat) % 2 ^ s.cfg.uptimeW ∧ s.uptime.toNat ≤ u.uptime.toNat) ∨
        (s.uptime.toNat = 2 ^ s.cfg.uptimeW - 1 ∧ u.deadline = 0 ∧ u.uptime = 0)) := by
  have hw := Config.uptimeW_le hs.legal
  have hstep := step_of_accepts ha hd rfl
  refine ⟨_, hstep, step_inv hs hstep, rfl, rfl, ?_⟩
  simp only [merge_uptime, merge_deadline]
  rcases timeBaseStep_cases s s.input.tick false with ⟨-, h⟩ | ⟨-, -, h⟩ | ⟨-, -, -, h⟩ <;> rw [h]
  · exact .inl ⟨addW_toNat hw .., le_rfl⟩
  · rcases tickApply_cases hw hs.uptimeFits with ⟨htop, ha⟩ | ⟨-, hsucc, ha⟩ <;> rw [ha]
    · exact .inr ⟨htop, rfl, rfl⟩
    · exact .inl ⟨addW_toNat hw .., hsucc ▸ Nat.le_succ _⟩
  · exact .inl ⟨addW_toNat hw .., le_rfl⟩

/-- DELAY's operand fits the counter (30_encoding.md R63). -/
theorem toNat_lt_of_decode_delay {uptimeW : Nat} {ms : Word} (hd : decode uptimeW w = .ok (.delay ms)) :
    ms.toNat < 2 ^ uptimeW := of_decide_eq_true (decode_eq_ok_iff.mp hd).2

/-- Settles O15: DELAY's own effect, the wrap of its step, and the words decode rejects. -/
theorem delaySetsTheDeadline : Obligations.DelaySetsTheDeadline := by
  refine ⟨fun ms s hw => ⟨_, rfl, addW_toNat hw .., rfl, rfl⟩, fun s w ms hs ha hd htick htop => ?_,
    fun _ _ => decode_delay_rejects⟩
  obtain ⟨u, hu, -, hc, -⟩ := step_accepts_delay hs ha hd
  obtain ⟨-, happlied, -⟩ := tickIsHeldOrAppliedOnce s u hs ha.noReset hu
  obtain ⟨-, hwrap, -⟩ := happlied (State.masked_of_idle ha.idle) htick
  obtain ⟨hup, hdl⟩ := hwrap htop
  exact ⟨u, hu, hdl (by simp [ha.ready]), hup, hc⟩

/-- An accepted DELAY whose W-bit sum is not above `uptime` completes in the step after its acceptance: the counter can
only rise in that step, or wrap and take the deadline to 0 with it. -/
theorem accepted_delay_completes {ms : Word} (hs : s.Inv) (ha : s.Accepts w)
    (hd : decode s.cfg.uptimeW w = .ok (.delay ms)) (hnr : s.NoResetFor 2)
    (hsum : (s.uptime.toNat + ms.toNat) % 2 ^ s.cfg.uptimeW ≤ s.uptime.toNat) :
    ∃ u t, step s = .next u ∧ u.ctl = .busyDelay ∧
      (u.deadline.toNat = (s.uptime.toNat + ms.toNat) % 2 ^ s.cfg.uptimeW ∨ u.deadline = 0 ∧ u.uptime = 0) ∧
      step u = .next t ∧ t.ctl = .ready ∧ t.rsp = ⟨true, 0, 0⟩ := by
  obtain ⟨u, hu, hinv, hc, -, hcase⟩ := step_accepts_delay hs ha hd
  have hreached : u.deadline.toNat ≤ u.uptime.toNat := by
    rcases hcase with ⟨hdl, hup⟩ | ⟨-, hdl, hup⟩
    · omega
    · rw [hdl, hup]
  obtain ⟨t, ht, hready, hrsp⟩ := step_completes_delay hinv (hnr.tail hu).head hc hreached
  exact ⟨u, t, hu, hc, hcase.imp And.left And.right, ht, hready, hrsp⟩

/-- Settles O41: the sum is `uptime` itself. -/
theorem delayOfZeroCompletesInTheNextStep : Obligations.DelayOfZeroCompletesInTheNextStep := by
  intro s w hs ha hd hnr
  obtain ⟨u, t, hu, -, -, ht, hready, hrsp⟩ := accepted_delay_completes hs ha hd hnr (Nat.mod_le ..)
  exact ⟨t, ⟨u, hu, t, ht, rfl⟩, hready, hrsp⟩

/-- Settles O43: an operand of W bits overflows once at most, so the sum is `uptime` less `2^W - ms`. -/
theorem overflowingDelayCompletesInTheNextStep : Obligations.OverflowingDelayCompletesInTheNextStep := by
  intro s w ms hs ha hd hover hnr
  have hms := toNat_lt_of_decode_delay hd
  have hup := hs.uptimeFits
  have hsum : (s.uptime.toNat + ms.toNat) % 2 ^ s.cfg.uptimeW = s.uptime.toNat + ms.toNat - 2 ^ s.cfg.uptimeW := by
    rw [Nat.mod_eq_sub_mod hover, Nat.mod_eq_of_lt (by omega)]
  obtain ⟨u, t, hu, hc, hdl, ht, hready, hrsp⟩ := accepted_delay_completes hs ha hd hnr (by omega)
  refine ⟨u, t, hu, hc, hdl.imp_left fun hdl => ?_, ht, hready, hrsp⟩
  rw [hdl, hsum]
  omega

/-- Settles O44: no deadline of W bits is above the counter's top value. -/
theorem noDelayWaitsAcrossAWrap : Obligations.NoDelayWaitsAcrossAWrap := by
  constructor
  · intro s hs hr hc htop
    exact step_completes_delay hs hr hc ((Nat.le_sub_one_of_lt hs.deadlineFits).trans_eq htop.symm)
  · intro s w ms hs ha hd htop hnr
    have hlt := Nat.mod_lt (s.uptime.toNat + ms.toNat) (Nat.two_pow_pos s.cfg.uptimeW)
    obtain ⟨u, t, hu, -, -, ht, hready, hrsp⟩ :=
      accepted_delay_completes hs ha hd hnr ((Nat.le_sub_one_of_lt hlt).trans_eq htop.symm)
    exact ⟨t, ⟨u, hu, t, ht, rfl⟩, hready, hrsp⟩

end Sys2Proof.Machine
end

section
/-! Runs of a waiting DELAY (40_timebase.md R78, R80, R83). -/

namespace Sys2Proof.Machine

/-- A DELAY waits, its deadline unchanged and no response given, for as long as the counter stays below its deadline. -/
theorem delay_waits_for {k : Nat} {s : State} (hs : s.Inv) (hc : s.ctl = .busyDelay) (hnr : s.NoResetFor k)
    (hahead : ∀ j u, j < k → StepsTo j s u → u.uptime.toNat < s.deadline.toNat) :
    ∃ t, StepsTo k s t ∧ t.ctl = .busyDelay ∧ t.deadline = s.deadline ∧
      (0 < k ∨ s.rsp.valid = false → t.rsp.valid = false) := by
  induction k generalizing s with
  | zero => exact ⟨s, rfl, hc, rfl, fun h => h.resolve_left (Nat.lt_irrefl 0)⟩
  | succ k ih =>
    obtain ⟨u, hu, huc, hud, hur, -⟩ := step_delay_waits hs hnr.head hc (hahead 0 s (Nat.succ_pos k) rfl)
    obtain ⟨t, ht, htc, htd, htr⟩ := ih (step_inv hs hu) huc (hnr.tail hu) fun j v hj hv =>
      hud ▸ hahead (j + 1) v (Nat.succ_lt_succ hj) ⟨u, hu, hv⟩
    exact ⟨t, ⟨u, hu, ht⟩, htc, htd.trans hud, fun _ => htr (.inr (by rw [hur]))⟩

/-- Settles O42: short of `2^W` the accepting step neither wraps nor reduces the sum; after it the DELAY waits for as long
as it is ahead, and completes where it is not. -/
theorem delayWaitsUntilItsTargetAndNoLonger : Obligations.DelayWaitsUntilItsTargetAndNoLonger := by
  intro s w ms c hs ha hd hms hfits hpos hnr hahead
  obtain ⟨k, rfl⟩ : ∃ k, c = k + 1 := ⟨c - 1, by omega⟩
  obtain ⟨u, hu, hinv, hc, hrsp, hcase⟩ := step_accepts_delay hs ha hd
  have hdl : u.deadline.toNat = s.uptime.toNat + ms.toNat := by
    rcases hcase with ⟨hsum, -⟩ | ⟨htop, -⟩
    · rw [hsum, Nat.mod_eq_of_lt hfits]
    · omega
  obtain ⟨t, ht, htc, htd, htr⟩ := delay_waits_for hinv hc ((hnr.tail hu).mono (Nat.le_succ k)) fun j v hj hv =>
    hdl ▸ hahead (j + 1) v (by omega) (by omega) ⟨u, hu, hv⟩
  have hst : StepsTo (k + 1) s t := ⟨u, hu, ht⟩
  refine ⟨t, hst, htc, htr (.inr hrsp), htd ▸ hdl, fun hreached => ?_⟩
  exact step_completes_delay (stepsTo_inv hs hst) (hnr.at_end hst) htc (by rwa [htd, hdl])

/-- With no tick held and none delivered the counter stands still, in the masked window too. -/
theorem stepsTo_uptime_of_no_tick {k : Nat} {s t : State} (hs : s.Inv) (hp : s.tickPending = false)
    (hnr : s.NoResetFor k) (hno : ∀ j, j < k → (s.inputAt j).tick = false) (h : StepsTo k s t) :
    t.uptime = s.uptime := by
  induction k generalizing s with
  | zero => rw [stepsTo_zero] at h; rw [h]
  | succ k ih =>
    obtain ⟨u, hu, ht⟩ := h
    have htick : s.input.tick = false := hno 0 (Nat.succ_pos k)
    have hstep : u.uptime = s.uptime ∧ u.tickPending = false := by
      rcases step_tick_cases hs.uptimeFits hnr.head hu with ⟨-, hup, hpend⟩ | ⟨-, hany, -⟩ | ⟨-, hany, -⟩ |
        ⟨-, -, -, hup, hpend⟩
      · exact ⟨hup, by simp [hpend, hp, htick]⟩
      · simp [hp, htick] at hany
      · simp [hp, htick] at hany
      · exact ⟨hup, hpend⟩
    obtain ⟨hup, hpend⟩ := hstep
    rw [ih (step_inv hs hu) hpend (hnr.tail hu) (fun j hj => step_inputAt hu j ▸ hno (j + 1) (Nat.succ_lt_succ hj)) ht,
      hup]

/-- Settles O45: without ticks the counter stands still below the deadline. -/
theorem delayHangsWithoutTicks : Obligations.DelayHangsWithoutTicks := by
  intro k s hs hc hahead hp hnr hno
  have hstill : ∀ j u, j ≤ k → StepsTo j s u → u.uptime = s.uptime := fun j u hj hu =>
    stepsTo_uptime_of_no_tick hs hp (hnr.mono hj) (fun i hi => hno i (hi.trans_le hj)) hu
  obtain ⟨t, ht, htc, htd, htr⟩ := delay_waits_for hs hc hnr fun j u hj hu => by rwa [hstill j u hj.le hu]
  exact ⟨t, ht, htc, by simp [State.output, htc], hstill k t le_rfl ht, htd, fun hk => htr (.inl hk)⟩

end Sys2Proof.Machine
end

section
/-! RD_UPTIME (40_timebase.md R84). -/

namespace Sys2Proof.Machine

/-- Settles O16: the answer is the pre-state's counter, and the tick of the step is applied outside the masked window. -/
theorem rdUptimeAnswersTheCounter : Obligations.RdUptimeAnswersTheCounter := by
  refine ⟨fun s => rfl, fun uptimeW => decode_encode (i := .rdUptime) rfl, fun s w ha hd => ?_, fun uptimeW w hop =>
    decode_formatZ_rejects (.inr (.inr (.inl hop)))⟩
  have hstep := step_of_accepts ha hd rfl
  refine ⟨_, hstep, rfl, ha.ready, fun htick hlt => ?_⟩
  rcases step_tick_cases (by omega) ha.noReset hstep with ⟨hm, -⟩ | ⟨-, -, htop, -⟩ | ⟨-, -, -, hup, -⟩ | ⟨-, -, hno, -⟩
  · simp [State.masked_of_idle ha.idle] at hm
  · omega
  · exact hup
  · simp [htick] at hno

end Sys2Proof.Machine
end

section
/-! What is left of a frame on the line, and the step that sends one value of it (42_signal_driver.md R96, R99 to R106). -/

namespace Sys2Proof.Machine

/-- The waveform from bit `p` of the frame on, the reset gap with it (42_signal_driver.md R96). -/
def waveFrom (c : Config) (fb : FrameBuffer) (p : Nat) : List Bool :=
  ((serialize c fb).drop p).flatMap (bitWave c) ++ List.replicate c.tres false

theorem waveFrom_zero (c : Config) (fb : FrameBuffer) : waveFrom c fb 0 = waveform c fb := rfl

theorem waveFrom_of_lt {c : Config} {p : Nat} (h : p < 32 * c.n) (fb : FrameBuffer) :
    waveFrom c fb p = bitWave c (frameBit c fb p) ++ waveFrom c fb (p + 1) := by
  have hp : p < (serialize c fb).length := by simpa [serialize] using h
  have hbit : (serialize c fb)[p] = frameBit c fb p := by simp [serialize]
  simp only [waveFrom, List.drop_eq_getElem_cons hp, List.flatMap_cons, List.append_assoc, hbit]

theorem waveFrom_end (c : Config) (fb : FrameBuffer) : waveFrom c fb (32 * c.n) = List.replicate c.tres false := by
  rw [waveFrom, List.drop_eq_nil_of_le (by simp [serialize])]
  rfl

/-- L(fb) is the length of the waveform (42_signal_driver.md R97). -/
theorem waveform_length (c : Config) (fb : FrameBuffer) : (waveform c fb).length = frameLength c fb := by
  simp [waveform, frameLength, bitWave, List.length_flatMap]

/-- What follows the phase that the registers `r` are in: the rest of the bit, of the frame of `fb`, and the gap. -/
def SignalRegs.waveAfter (c : Config) (fb : FrameBuffer) (r : SignalRegs) : List Bool :=
  match r.phase with
  | .idle => []
  | .high => List.replicate (c.tl r.curBit) false ++ waveFrom c fb (r.position + 1)
  | .low => waveFrom c fb (r.position + 1)
  | .gap => []

/-- The values that the registers `r` have still to put on the line, the present one first. -/
def SignalRegs.waveLeft (c : Config) (fb : FrameBuffer) (r : SignalRegs) : List Bool :=
  if r.phase = .idle then [] else List.replicate (r.cnt + 1) r.dout ++ r.waveAfter c fb

section waveLeft

variable {c : Config} {fb : FrameBuffer} {r : SignalRegs}

theorem SignalRegs.waveAfter_high (h : r.phase = .high) :
    r.waveAfter c fb = List.replicate (c.tl r.curBit) false ++ waveFrom c fb (r.position + 1) := by
  rw [waveAfter, h]

theorem SignalRegs.waveAfter_low (h : r.phase = .low) : r.waveAfter c fb = waveFrom c fb (r.position + 1) := by
  rw [waveAfter, h]

theorem SignalRegs.waveAfter_gap (h : r.phase = .gap) : r.waveAfter c fb = [] := by
  rw [waveAfter, h]

theorem SignalRegs.waveLeft_idle (h : r.phase = .idle) : r.waveLeft c fb = [] := if_pos h

theorem SignalRegs.waveLeft_sending (h : r.phase ≠ .idle) :
    r.waveLeft c fb = List.replicate (r.cnt + 1) r.dout ++ r.waveAfter c fb := if_neg h

/-- The present value of the line comes first, then the rest of the phase. -/
theorem SignalRegs.waveLeft_eq_cons (h : r.phase ≠ .idle) :
    r.waveLeft c fb = r.dout :: (List.replicate r.cnt r.dout ++ r.waveAfter c fb) := waveLeft_sending h

/-- Nothing is left exactly in an idle unit. -/
theorem SignalRegs.waveLeft_eq_nil_iff : r.waveLeft c fb = [] ↔ r.phase = .idle := by
  refine ⟨fun h => ?_, waveLeft_idle⟩
  by_contra hne
  simp [waveLeft_eq_cons hne] at h

/-- The cursor stands within the frame while its LED is below N. -/
theorem SignalRegs.position_lt (h : r.led.toNat < c.n) : r.position < 32 * c.n := by
  have := r.slot.isLt
  unfold position
  omega

/-- The byte register's bit under the cursor is the frame's (10_state.md R30). -/
theorem SignalRegs.Follows.frameBit_position (h : r.Follows c fb) (hne : r.phase ≠ .idle) :
    frameBit c fb r.position = r.curBit := by
  rw [frameBit, position_led, position_slot, position_bit, ← h.byteLoaded hne, curBit]

/-- A bit begun has itself and the frame after it left. -/
theorem beginBit_waveLeft {led : BitVec 16} {slot : BitVec 2} {bit : BitVec 3} {byte : Byte} (hl : c.legal = true)
    (hled : led.toNat < c.n) (hf : (beginBit c led slot bit byte).Follows c fb) :
    (beginBit c led slot bit byte).waveLeft c fb = waveFrom c fb (beginBit c led slot bit byte).position := by
  have hcnt : (beginBit c led slot bit byte).cnt + 1 = c.th (beginBit c led slot bit byte).curBit :=
    Nat.sub_add_cancel (Config.th_pos hl _)
  have hpos : (beginBit c led slot bit byte).position < 32 * c.n := SignalRegs.position_lt hled
  rw [SignalRegs.waveLeft_sending (by simp), SignalRegs.waveAfter_high rfl, hcnt, waveFrom_of_lt hpos,
    hf.frameBit_position (by simp), bitWave, List.append_assoc, beginBit_dout]

end waveLeft

variable {s t : State}

/-- Advance moves the cursor on by one bit (42_signal_driver.md R103). -/
theorem advanceBit_position {r : SignalRegs} (hl : s.cfg.legal = true) (h : advanceBit s = .ok r) :
    r.position = s.sd.position + 1 := by
  have hbit := s.sd.bit.isLt
  have htop : (7 : BitVec 3).toNat = 7 := rfl
  rcases advanceBit_cases h with ⟨hb, rfl⟩ | ⟨hb, hsl, -, rfl⟩ | ⟨hb, hsl, hnext, rfl⟩
  · have : (s.sd.bit - 1).toNat = s.sd.bit.toNat - 1 := by bv_omega
    simp only [SignalRegs.position, beginBit_led, beginBit_slot, beginBit_bit]
    omega
  · have : (s.sd.slot + 1).toNat = s.sd.slot.toNat + 1 := by bv_omega
    simp only [SignalRegs.position, beginBit_led, beginBit_slot, beginBit_bit, htop]
    omega
  · simp only [SignalRegs.position, beginBit_led, beginBit_slot, beginBit_bit, htop, Config.led_succ_toNat hl hnext,
      show (0 : BitVec 2).toNat = 0 from rfl]
    omega

/-- Whatever bit Advance moves to, it begins. -/
theorem advanceBit_begins {r : SignalRegs} (h : advanceBit s = .ok r) :
    ∃ led slot bit byte, r = beginBit s.cfg led slot bit byte := by
  rcases advanceBit_cases h with ⟨-, rfl⟩ | ⟨-, -, -, rfl⟩ | ⟨-, -, -, rfl⟩ <;> exact ⟨_, _, _, _, rfl⟩

/-- After Advance the frame from the next bit on is left. -/
theorem advanceBit_waveLeft {r : SignalRegs} (hs : s.Inv) (hf : s.FrameInv) (hne : s.sd.phase ≠ .idle)
    (h : advanceBit s = .ok r) : r.waveLeft s.cfg s.fb = waveFrom s.cfg s.fb (s.sd.position + 1) := by
  have hfollows := advanceBit_follows hs.legal (hf.byteLoaded hne) h
  have hled := (advanceBit_inv hs.legal (hs.led hne) h).led (by simp [advanceBit_phase h])
  rw [← advanceBit_position hs.legal h]
  obtain ⟨led, slot, bit, byte, rfl⟩ := advanceBit_begins h
  exact beginBit_waveLeft hs.legal hled hfollows

/-- An SdStep that is no stall sends the value on the line: what was left is that value and what is left after it. -/
theorem sdStep_waveLeft {preempt : Bool} {o : SdOut} (hs : s.Inv) (hf : s.FrameInv) (hne : s.sd.phase ≠ .idle)
    (hst : s.stalled preempt = false) (h : sdStep s preempt = .ok o) :
    s.sd.waveLeft s.cfg s.fb = s.sd.dout :: o.regs.waveLeft s.cfg s.fb := by
  rw [SignalRegs.waveLeft_eq_cons hne]
  congr 1
  rcases sdStep_sending_cases hne h with ⟨hst', -⟩ | ⟨-, hc, rfl⟩ | ⟨-, hp, hc, rfl⟩ | ⟨-, hp, hc, hlast, rfl⟩ |
    ⟨-, hp, hc, -, r, hadv, rfl⟩ | ⟨-, hp, hc, rfl⟩
  · simp [hst] at hst'
  · rw [SignalRegs.waveLeft_sending (by exact hne), Nat.sub_add_cancel hc]
    rfl
  · rw [SignalRegs.waveAfter_high hp, SignalRegs.waveLeft_sending (by simp), SignalRegs.waveAfter_low rfl, hc,
      Nat.sub_add_cancel (Config.tl_pos hs.legal _)]
    rfl
  · obtain ⟨hled, hslot, hbit⟩ := s.lastBit_iff.mp hlast
    have hend : s.sd.position + 1 = 32 * s.cfg.n := by
      unfold SignalRegs.position
      omega
    have hlow : s.sd.dout = false := by simpa [hp] using hs.dout
    rw [SignalRegs.waveAfter_low hp, hend, waveFrom_end, SignalRegs.waveLeft_sending (by simp),
      SignalRegs.waveAfter_gap rfl, hc, hlow, Nat.sub_add_cancel (Config.tres_pos hs.legal), List.append_nil]
    rfl
  · rw [SignalRegs.waveAfter_low hp, hc, advanceBit_waveLeft hs hf hne hadv]
    rfl
  · rw [SignalRegs.waveAfter_gap hp, hc, SignalRegs.waveLeft_idle rfl]
    rfl

/-- Before the frame's last bit, Advance reads below N (42_signal_driver.md R103, 41_framebuffer.md R89). -/
theorem advanceBit_answers (hled : s.sd.led.toNat < s.cfg.n) (hlast : s.lastBit = false) :
    ∃ r, advanceBit s = .ok r := by
  have hnotLast := mt s.lastBit_iff.mpr (by simp [hlast])
  have hslot := s.sd.slot.isLt
  unfold advanceBit
  split
  · exact ⟨_, rfl⟩
  · split
    · rw [frameRead_of_lt hled]
      exact ⟨_, rfl⟩
    · rw [frameRead_of_lt (by omega)]
      exact ⟨_, rfl⟩

/-- SdStep answers in every state with the invariants. -/
theorem sdStep_answers (hs : s.Inv) (preempt : Bool) : ∃ o, sdStep s preempt = .ok o := by
  unfold sdStep
  split
  · exact ⟨_, rfl⟩
  · split
    · exact ⟨_, rfl⟩
    · exact ⟨_, rfl⟩
    · rename_i hp
      have hlow : ∃ r, lowStep s = .ok r := by
        unfold lowStep
        split
        · exact ⟨_, rfl⟩
        · split
          · exact ⟨_, rfl⟩
          · exact advanceBit_answers (hs.led (by simp [hp])) (by simpa using ‹¬ s.lastBit = true›)
      obtain ⟨r, hr⟩ := hlow
      rw [hr]
      exact ⟨_, rfl⟩
    · exact ⟨_, rfl⟩

/-- A step while a frame is sent, without reset and without stall, puts the next value of the frame behind it, leaves
`fb`, and completes the TX where nothing is left (42_signal_driver.md R105). -/
theorem step_sends (hs : s.Inv) (hf : s.FrameInv) (hr : s.input.rst = false) (hne : s.sd.phase ≠ .idle)
    (hst : s.stalled s.input.preempt = false) :
    ∃ t, step s = .next t ∧ t.fb = s.fb ∧ s.sd.waveLeft s.cfg s.fb = s.sd.dout :: t.sd.waveLeft s.cfg s.fb ∧
      (t.sd.phase = .idle → t.ctl = .ready ∧ t.rsp = ⟨true, 0, 0⟩) := by
  obtain ⟨o, ho⟩ := sdStep_answers hs s.input.preempt
  have hc : controlStep s s.input.cmdValid s.input.cmdWord o.done = .next (txStep s o.done) := by
    rw [controlStep, hs.tx.mpr hne]
  refine ⟨_, step_of_units hs.legal hr ho hc, txStep_fb s o.done, ?_, fun hidle => ?_⟩
  · rw [merge_sd, if_neg hne]
    exact sdStep_waveLeft hs hf hne hst ho
  · rw [merge_sd, if_neg hne] at hidle
    rw [merge_ctl, merge_rsp, (sdStep_done_iff_idle hne ho).mpr hidle]
    exact ⟨rfl, rfl⟩

end Sys2Proof.Machine
end

section
/-! A frame sent without stall, from its first value to the completion of the TX (42_signal_driver.md R106, R109). -/

namespace Sys2Proof.Machine

/-- A run keeps the byte under the cursor. -/
theorem stepsTo_frameInv {k : Nat} {s t : State} (hs : s.Inv) (hf : s.FrameInv) (h : StepsTo k s t) : t.FrameInv := by
  induction k generalizing s with
  | zero => rw [stepsTo_zero] at h; exact h ▸ hf
  | succ k ih => obtain ⟨u, hu, ht⟩ := h; exact ih (step_inv hs hu) (step_frameInv hs hf hu) ht

/-- No stall step falls among the next `k` steps: frames are masked, or the environment does not preempt in them
(42_signal_driver.md R100). `State.NoStallFor` says it of the steps after the next. -/
def State.Unstalled (s : State) (k : Nat) : Prop :=
  s.cfg.txMasksIrq = true ∨ ∀ j, j < k → (s.inputAt j).preempt = false

variable {s t u : State} {k : Nat}

theorem State.NoStallFor.unstalled (h : s.NoStallFor k) (hu : step s = .next u) : u.Unstalled k :=
  h.imp (fun hm => (step_env hu).1 ▸ hm) fun hp j hj => step_inputAt hu j ▸ hp (j + 1) (by omega) (by omega)

theorem State.Unstalled.mono {j : Nat} (h : s.Unstalled k) (hj : j ≤ k) : s.Unstalled j :=
  h.imp_right fun hp i hi => hp i (hi.trans_le hj)

theorem State.Unstalled.tail (h : s.Unstalled (k + 1)) (hu : step s = .next u) : u.Unstalled k :=
  h.imp (fun hm => (step_env hu).1 ▸ hm) fun hp j hj => step_inputAt hu j ▸ hp (j + 1) (Nat.succ_lt_succ hj)

/-- The first input after a run that the premise outlasts stalls nothing. -/
theorem State.Unstalled.at_end (h : s.Unstalled (k + 1)) (ht : StepsTo k s t) (hne : t.sd.phase ≠ .idle) :
    t.stalled t.input.preempt = false := by
  rcases h with hm | hp
  · simp [State.stalled, State.masked, stepsTo_cfg ht, hm, hne]
  · have : t.input.preempt = false := by
      rw [State.input, stepsTo_inputAt ht]
      exact hp k (Nat.lt_succ_self k)
    simp [State.stalled, this]

/-- While values of the frame are left, it is sent, one value a step. -/
theorem frame_runs (hs : s.Inv) (hf : s.FrameInv) (hnr : s.NoResetFor k) (hst : s.Unstalled k)
    (hk : k < (s.sd.waveLeft s.cfg s.fb).length) :
    ∃ t, StepsTo k s t ∧ t.sd.phase ≠ .idle ∧ t.fb = s.fb ∧
      t.sd.waveLeft s.cfg s.fb = (s.sd.waveLeft s.cfg s.fb).drop k := by
  induction k with
  | zero =>
    refine ⟨s, rfl, fun hidle => ?_, rfl, rfl⟩
    rw [SignalRegs.waveLeft_eq_nil_iff.mpr hidle] at hk
    exact Nat.lt_irrefl 0 hk
  | succ k ih =>
    obtain ⟨t, ht, hne, hfb, hleft⟩ := ih (hnr.mono (Nat.le_succ k)) (hst.mono (Nat.le_succ k)) (by omega)
    obtain ⟨v, hv, hvfb, hvleft, -⟩ :=
      step_sends (stepsTo_inv hs ht) (stepsTo_frameInv hs hf ht) (hnr.at_end ht) hne (hst.at_end ht hne)
    rw [stepsTo_cfg ht, hfb, hleft] at hvleft
    have hdrop : v.sd.waveLeft s.cfg s.fb = (s.sd.waveLeft s.cfg s.fb).drop (k + 1) := by
      rw [← List.drop_drop, hvleft, List.drop_one, List.tail_cons]
    refine ⟨v, stepsTo_snoc ht hv, fun hidle => ?_, hvfb.trans hfb, hdrop⟩
    have hlen := congrArg List.length hdrop
    rw [SignalRegs.waveLeft_eq_nil_iff.mpr hidle, List.length_nil, List.length_drop] at hlen
    omega

/-- The step that sends the last value completes the TX. -/
theorem frame_completes (hs : s.Inv) (hf : s.FrameInv) (hnr : s.NoResetFor (k + 1)) (hst : s.Unstalled (k + 1))
    (hk : (s.sd.waveLeft s.cfg s.fb).length = k + 1) :
    ∃ t, StepsTo (k + 1) s t ∧ t.sd.phase = .idle ∧ t.ctl = .ready ∧ t.rsp = ⟨true, 0, 0⟩ := by
  obtain ⟨t, ht, hne, hfb, hleft⟩ := frame_runs hs hf (hnr.mono (Nat.le_succ k)) (hst.mono (Nat.le_succ k)) (by omega)
  obtain ⟨v, hv, -, hvleft, hdone⟩ :=
    step_sends (stepsTo_inv hs ht) (stepsTo_frameInv hs hf ht) (hnr.at_end ht) hne (hst.at_end ht hne)
  have hlen := congrArg List.length hvleft
  rw [stepsTo_cfg ht, hfb, hleft, List.length_drop, hk, List.length_cons] at hlen
  have hnone : (v.sd.waveLeft s.cfg s.fb).length = 0 := by omega
  have hidle : v.sd.phase = .idle := SignalRegs.waveLeft_eq_nil_iff.mp (List.length_eq_zero_iff.mp hnone)
  exact ⟨v, stepsTo_snoc ht hv, hidle, hdone hidle⟩

/-- The step that accepts a TX puts the whole waveform ahead of the line (42_signal_driver.md R98). -/
theorem step_accepts_tx {w : CmdWord} (hs : s.Inv) (ha : s.Accepts w) (hd : decode s.cfg.uptimeW w = .ok .tx) :
    ∃ u, step s = .next u ∧ u.Inv ∧ u.FrameInv ∧ u.fb = s.fb ∧
      u.sd.waveLeft s.cfg s.fb = waveform s.cfg s.fb := by
  obtain ⟨⟨hn, -⟩, -⟩ := (Config.legal_iff s.cfg).mp hs.legal
  have hexec : exec .tx s = .next { s.noResponse with
      sd := beginBit s.cfg 0 0 7 (wireByte s.cfg.order (s.fb.read 0) 0), ctl := .busyTx } := by
    simp [exec, execTx, frameRead_of_lt hn]
  have hstep := step_of_accepts ha hd hexec
  have hidle : s.FrameInv := s.frameInv_iff.mpr (SignalRegs.follows_of_idle _ _ ha.idle)
  refine ⟨_, hstep, step_inv hs hstep, step_frameInv hs hidle hstep, rfl, ?_⟩
  rw [merge_sd, if_pos ha.idle]
  exact beginBit_waveLeft hs.legal hn (beginBit_follows rfl 7)

/-- In the masked window the counter stands still, and of the ticks held and arriving one is kept (40_timebase.md R72,
R73). -/
theorem masked_run_ticks (hs : s.Inv) (hnr : s.NoResetFor k)
    (hm : ∀ j u, j < k → StepsTo j s u → u.masked = true) (h : StepsTo k s t) :
    t.uptime = s.uptime ∧ t.tickPending.toNat = min 1 (s.tickPending.toNat + s.ticksIn k) := by
  induction k generalizing s with
  | zero =>
    rw [stepsTo_zero] at h
    subst h
    exact ⟨rfl, (min_eq_right (Bool.toNat_le _)).symm⟩
  | succ k ih =>
    obtain ⟨u, hu, ht⟩ := h
    obtain ⟨hup, hpend⟩ : u.uptime = s.uptime ∧ u.tickPending = (s.tickPending || s.input.tick) :=
      (tickIsHeldOrAppliedOnce s u hs hnr.head hu).1 (hm 0 s (Nat.succ_pos k) rfl)
    obtain ⟨htup, htpend⟩ := ih (step_inv hs hu) (hnr.tail hu) (fun j v hj hv => hm (j + 1) v (by omega) ⟨u, hu, hv⟩) ht
    refine ⟨htup.trans hup, ?_⟩
    have hor : (s.tickPending || s.input.tick).toNat = min 1 (s.tickPending.toNat + s.input.tick.toNat) := by
      cases s.tickPending <;> cases s.input.tick <;> rfl
    rw [htpend, hpend, hor, ticksIn_succ hu]
    omega

/-- A frame of `k + 1` values sent with frames masked: it completes, and every step of it is masked. -/
theorem masked_frame_ticks (hs : s.Inv) (hf : s.FrameInv) (hm : s.cfg.txMasksIrq = true) (hnr : s.NoResetFor (k + 1))
    (hlen : (s.sd.waveLeft s.cfg s.fb).length = k + 1) :
    ∃ t, StepsTo (k + 1) s t ∧ t.ctl = .ready ∧ t.uptime = s.uptime ∧
      t.tickPending.toNat = min 1 (s.tickPending.toNat + s.ticksIn (k + 1)) := by
  have hmasked : ∀ j u, j < k + 1 → StepsTo j s u → u.masked = true := by
    intro j u hj hu
    obtain ⟨u', hu', hne, -⟩ := frame_runs hs hf (hnr.mono hj.le) (.inl hm) (by omega)
    obtain rfl := stepsTo_unique hu hu'
    simp [State.masked, stepsTo_cfg hu, hm, hne]
  obtain ⟨t, ht, -, hready, -⟩ := frame_completes hs hf hnr (.inl hm) hlen
  exact ⟨t, ht, hready, masked_run_ticks hs hnr hmasked ht⟩

/-- Outside the masked window a tick is held after the step only where one arrives in it. -/
theorem held_le_tick_of_unmasked (hu : s.uptime.toNat < 2 ^ s.cfg.uptimeW) (hr : s.input.rst = false)
    (hm : s.masked = false) (h : step s = .next t) : t.tickPending.toNat ≤ s.input.tick.toNat := by
  have hand : (s.tickPending && s.input.tick).toNat ≤ s.input.tick.toNat := by cases s.tickPending <;> simp
  rcases step_tick_cases hu hr h with ⟨hm', -⟩ | ⟨-, -, -, -, -, hp⟩ | ⟨-, -, -, -, hp⟩ | ⟨-, -, -, -, hp⟩
  · simp [hm] at hm'
  · exact hp ▸ hand
  · exact hp ▸ hand
  · exact hp ▸ Nat.zero_le _

/-- At most one tick falls into a period (40_timebase.md R76). -/
theorem State.TicksPeriodic.ticksIn_le_one {phase : Nat} (h : s.TicksPeriodic k phase) (hk : k ≤ s.cfg.tickCyc) :
    s.ticksIn k ≤ 1 := by
  obtain ⟨hphase, htick⟩ := h
  have hat : ∀ j ∈ List.range k, (s.inputAt j).tick = true → (j == phase) = true := by
    intro j hj hjt
    have hjk : j < k := List.mem_range.mp hj
    rw [htick j hjk, decide_eq_true_iff] at hjt
    obtain ⟨hle, hmod⟩ := hjt
    rw [Nat.mod_eq_of_lt (by omega)] at hmod
    exact beq_iff_eq.mpr (by omega)
  calc s.ticksIn k = (List.range k).countP fun j => (s.inputAt j).tick := List.countP_eq_length_filter.symm
    _ ≤ (List.range k).count phase := List.countP_mono_left hat
    _ ≤ 1 := List.nodup_iff_count_le_one.mp List.nodup_range phase

/-- Settles O38: the accepting step counts or holds its tick, the frame's steps are all masked and hold one, and no second
one comes: the steps of the frame and the accepting one are no more than a period. -/
theorem shortFrameLosesNoTick : Obligations.ShortFrameLosesNoTick := by
  intro s w phase hs ha hd hmask hshort hper hnr hlt
  have hunmasked := State.masked_of_idle ha.idle
  obtain ⟨u, hu, hui, huf, hfb, hwave⟩ := step_accepts_tx hs ha hd
  have hcfg : u.cfg = s.cfg := (step_env hu).1
  have hlen : (u.sd.waveLeft u.cfg u.fb).length = frameLength s.cfg s.fb := by
    rw [hcfg, hfb, hwave, waveform_length]
  obtain ⟨k, hk⟩ : ∃ k, frameLength s.cfg s.fb = k + 1 :=
    Nat.exists_eq_add_one.mpr (Nat.add_pos_right _ (Config.tres_pos hs.legal))
  rw [hk] at hnr hlen hshort hper ⊢
  obtain ⟨t, ht, hready, hup, hpend⟩ := masked_frame_ticks hui huf (hcfg ▸ hmask) (hnr.tail hu) hlen
  have haccept := onlyASecondMaskedTickIsLost s u hs ha.noReset hu hlt
  rw [if_neg (by simp [hunmasked])] at haccept
  have hheld := held_le_tick_of_unmasked hs.uptimeFits ha.noReset hunmasked hu
  have hone : s.ticksIn (k + 1 + 1) ≤ 1 := hper.ticksIn_le_one hshort
  rw [ticksIn_succ hu] at hone
  refine ⟨t, ⟨u, hu, ht⟩, hready, ?_⟩
  rw [ticksIn_succ hu, hup, hpend, min_eq_right (by omega)]
  omega

end Sys2Proof.Machine
end

section
/-! The words of FB_SET and FB_GET that decode rejects (30_encoding.md R63, R65). -/

namespace Sys2Proof

/-- A word of a legal opcode with RSV set is rejected, whatever its operands. -/
theorem decode_rsv_rejects {uptimeW : Nat} {w : CmdWord} (hop : (opField w).toNat < 7) (hr : rsvField w ≠ 0) :
    decode uptimeW w = .error .reservedBits :=
  decode_reservedBits_of_ne_ok hop fun _ hok => hr (decode_ok_cases hok).1

/-- A word of FB_GET has RSV and DATA clear. -/
theorem decode_fbGet_rejects {uptimeW : Nat} {w : CmdWord} (hop : opField w = 2)
    (h : rsvField w ≠ 0 ∨ dataField w ≠ 0) : decode uptimeW w = .error .reservedBits := by
  have hlegal : (opField w).toNat < 7 := by rw [hop]; decide
  rcases h with hr | hdata
  · exact decode_rsv_rejects hlegal hr
  · refine decode_reservedBits_of_ne_ok hlegal fun i hok => hdata ?_
    obtain ⟨-, hcases⟩ := decode_ok_cases hok
    obtain ⟨hz, -⟩ : dataField w = 0 ∧ i = .fbGet (idxField w) := by simpa [hop] using hcases
    exact hz

end Sys2Proof
end

section
/-! FB_SET and FB_GET, one at a time (41_framebuffer.md R85 to R87). -/

namespace Sys2Proof.Machine

variable {idx : Index} {s : State}

/-- FB_GET below N answers the Color: the converse of the first case of `execFbGet_cases`. -/
theorem exec_fbGet_of_lt (h : idx.toNat < s.cfg.n) :
    exec (.fbGet idx) s = .next (s.respond statusOk (s.fb.read idx.toNat)) :=
  if_pos (decide_eq_true h)

/-- FB_GET past N enters the index fault: the converse of the second case. -/
theorem exec_fbGet_of_le (h : s.cfg.n ≤ idx.toNat) :
    exec (.fbGet idx) s = .next (s.raise .indexOutOfRange (encode (.fbGet idx))) :=
  if_neg (by simpa [Config.inRange] using h)

/-- Settles O11: the write reads back, leaves the other indices and the canonical form, and RSV is checked by decode. -/
theorem fbSetStoresTheColor : Obligations.FbSetStoresTheColor :=
  ⟨fun _ color s hwf hlt => ⟨_, exec_fbSet_of_lt hlt color, FrameBuffer.read_write_same hwf _ _,
    fun _ hj => FrameBuffer.read_write_other hj color s.fb, FrameBuffer.write_wf hwf hlt color, rfl, rfl⟩,
    fun _ _ hop => decode_rsv_rejects (by rw [hop]; decide)⟩

/-- Settles O12: past N the next state is fault entry, which writes no Color. -/
theorem failedFbSetLeavesTheBufferAndHalts : Obligations.FailedFbSetLeavesTheBufferAndHalts :=
  fun _ color _ hle => ⟨_, exec_fbSet_of_le hle color, fun _ => rfl, rfl, rfl, rfl, rfl⟩

/-- Settles O13: the answer below N, fault entry past it, and the words decode rejects. -/
theorem fbGetAnswersTheColor : Obligations.FbGetAnswersTheColor :=
  ⟨fun _ _ => exec_fbGet_of_lt, fun _ _ => exec_fbGet_of_le, fun _ _ => decode_fbGet_rejects⟩

/-- Settles O19: below N the next state is the response and the write, which leaves the other indices. -/
theorem fbSetChangesOneColorAndTheResponse : Obligations.FbSetChangesOneColorAndTheResponse := by
  intro idx color s t hlt h
  rcases execFbSet_cases h with ⟨-, rfl⟩ | ⟨hle, -⟩
  · refine ⟨rfl, ?_⟩
    rintro _ rfl b hb
    exact FrameBuffer.read_write_other hb color s.fb
  · exact absurd hlt hle.not_gt

end Sys2Proof.Machine
end

section
/-! Runs in which an index of the FrameBuffer is not written (41_framebuffer.md R88, R90). -/

namespace Sys2Proof.Machine

/-- The step from `s`, if it is no reset, accepts an FB_SET to index `i`. -/
def State.AcceptsFbSetTo (s : State) (i : Nat) : Prop :=
  s.ctl = .ready ∧ s.input.cmdValid = true ∧
    ∃ idx color, decode s.cfg.uptimeW s.input.cmdWord = .ok (.fbSet idx color) ∧ idx.toNat = i

variable {s t : State} {i k : Nat}

/-- Only an FB_SET to an index changes what the index reads. -/
theorem step_read_of_not_acceptsFbSetTo (hs : s.Inv) (hr : s.input.rst = false) (hno : ¬ s.AcceptsFbSetTo i)
    (h : step s = .next t) : t.fb.read i = s.fb.read i := by
  by_cases hfb : t.fb = s.fb
  · rw [hfb]
  · obtain ⟨hready, -, hv, idx, color, hd, -, hwrite⟩ := onlyAnAcceptedFbSetWritesTheBuffer s t hs hr h hfb
    have hne : i ≠ idx.toNat := fun hi => hno ⟨hready, hv, idx, color, hd, hi.symm⟩
    rw [hwrite, FrameBuffer.read_write_other hne]

/-- An index that no step of a run writes reads the same after it. -/
theorem stepsTo_read_of_not_acceptsFbSetTo (hs : s.Inv) (hnr : s.NoResetFor k)
    (hno : ∀ j x, j < k → StepsTo j s x → ¬ x.AcceptsFbSetTo i) (h : StepsTo k s t) :
    t.fb.read i = s.fb.read i := by
  induction k generalizing t with
  | zero => rw [stepsTo_zero.mp h]
  | succ k ih =>
    obtain ⟨x, hx, hlast⟩ := stepsTo_last h
    have hkept : x.fb.read i = s.fb.read i :=
      ih (hnr.mono (Nat.le_succ k)) (fun j y hj => hno j y (hj.trans k.lt_succ_self)) hx
    rw [step_read_of_not_acceptsFbSetTo (stepsTo_inv hs hx) (hnr.at_end hx) (hno k x k.lt_succ_self hx) hlast, hkept]

/-- A run in which no FB_SET is accepted leaves the whole FrameBuffer: both ends are canonical and read alike. -/
theorem stepsTo_fb_of_not_acceptsFbSetTo (hs : s.Inv) (hnr : s.NoResetFor k)
    (hno : ∀ i j x, j < k → StepsTo j s x → ¬ x.AcceptsFbSetTo i) (h : StepsTo k s t) : t.fb = s.fb := by
  have hwf := (stepsTo_inv hs h).fbCanonical
  rw [stepsTo_cfg h] at hwf
  exact FrameBuffer.eq_of_read_eq hwf hs.fbCanonical fun i => stepsTo_read_of_not_acceptsFbSetTo hs hnr (hno i) h

/-- Settles O22: the accepted FB_SET stores the Color, the run keeps it, and the accepted FB_GET answers it. -/
theorem setThenGetAnswersTheColor : Obligations.SetThenGetAnswersTheColor := by
  intro s u v w w' idx color k hs ha hd hlt hu hrun hnr hno hget hdget
  have hset := step_of_accepts ha hd (exec_fbSet_of_lt hlt color)
  have hstored : u.fb.read idx.toNat = color := by
    cases hset.symm.trans hu
    exact FrameBuffer.read_write_same hs.fbCanonical idx.toNat color
  have hkept : v.fb.read idx.toNat = u.fb.read idx.toNat := by
    refine stepsTo_read_of_not_acceptsFbSetTo (step_inv hs hu) hnr ?_ hrun
    rintro j x hj hx ⟨hready, hv, idx', color', hdec, hidx⟩
    obtain rfl : idx' = idx := BitVec.eq_of_toNat_eq hidx
    exact hno j x hj hx ⟨hready, hv, color', hdec⟩
  have hcfg : v.cfg = s.cfg := (stepsTo_cfg hrun).trans (step_env hu).1
  refine ⟨_, step_of_accepts hget hdget (exec_fbGet_of_lt (hcfg ▸ hlt)), ?_⟩
  rw [merge_rsp, State.respond_rsp, hkept, hstored, statusOk]

/-- Settles O56: the accepting step takes the TX, and in the states after it the controller is in BUSY_TX by INV-TX, so
no step of the run accepts an FB_SET. -/
theorem frameStandsStillDuringTx : Obligations.FrameStandsStillDuringTx := by
  intro k s t w hs ha hd hnr hbusy hrun
  refine stepsTo_fb_of_not_acceptsFbSetTo hs hnr ?_ hrun
  rintro i j x hj hx ⟨hready, -, idx, color, hset, -⟩
  cases j with
  | zero =>
    rw [stepsTo_zero.mp hx, ha.word, hd] at hset
    cases hset
  | succ j =>
    have htx : x.ctl = .busyTx := (stepsTo_inv hs hx).tx.mpr (hbusy (j + 1) x (Nat.succ_pos j) hj hx)
    simp [hready] at htx

end Sys2Proof.Machine
end

section
/-! TX's acceptance and the frame of the two waiting commands (42_signal_driver.md R98, 40_timebase.md R77). -/

namespace Sys2Proof.Machine

/-- TX begins the frame of any strip that has an LED: the converse of `execTx_cases`. -/
theorem exec_tx_of_pos {s : State} (h : 0 < s.cfg.n) :
    exec .tx s = .next { s.noResponse with
      sd := beginBit s.cfg 0 0 7 (wireByte s.cfg.order (s.fb.read 0) 0), ctl := .busyTx } := by
  rw [exec, execTx, frameRead_of_lt h]

/-- Settles O14: the registers of the frame's first bit, and format Z. -/
theorem txBeginsTheFrame : Obligations.TxBeginsTheFrame :=
  ⟨fun _ hn => ⟨_, exec_tx_of_pos hn, rfl, rfl, rfl, rfl, rfl, rfl, rfl, rfl, rfl⟩,
    fun _ _ hop => decode_formatZ_rejects (.inr (.inl hop))⟩

/-- Settles O21: each command's one next state differs from the pre-state in the registers named. -/
theorem waitingCommandsChangeOnlyTheirOwnRegisters : Obligations.WaitingCommandsChangeOnlyTheirOwnRegisters := by
  refine ⟨fun s t h => ?_, fun ms s t h => ?_⟩
  · obtain ⟨-, rfl⟩ := execTx_cases h
    exact ⟨rfl, fun _ => rfl⟩
  · cases h
    exact ⟨rfl, fun _ => rfl⟩

end Sys2Proof.Machine
end

section
/-! The length of a frame, and the frame on the line (42_signal_driver.md R96, R97, R106). -/

namespace Sys2Proof.Machine

/-- A frame has 32 bits for every LED (42_signal_driver.md R95). -/
@[simp] theorem serialize_length (c : Config) (fb : FrameBuffer) : (serialize c fb).length = 32 * c.n := by
  simp [serialize]

/-- With equal bit periods the frame's length does not depend on its bits. -/
theorem frameLength_of_equal_periods {c : Config} (h : c.t0h + c.t0l = c.t1h + c.t1l) (fb : FrameBuffer) :
    frameLength c fb = 32 * c.n * (c.t0h + c.t0l) + c.tres := by
  have hperiod : (fun b => c.th b + c.tl b) = fun _ => c.t0h + c.t0l := by
    funext b
    cases b
    · rfl
    · exact h.symm
  rw [frameLength, hperiod, List.map_const', List.sum_replicate, serialize_length, smul_eq_mul]

/-- Settles O59: the length of the waveform, its value for equal periods, and the default timing as a case of it. -/
theorem frameLengthDependsOnTheStripLength : Obligations.FrameLengthDependsOnTheStripLength := by
  refine ⟨waveform_length, fun _ fb h => frameLength_of_equal_periods h fb, fun n fb => ?_⟩
  rw [frameLength_of_equal_periods rfl]
  change 32 * n * 20 + 1280 = _
  omega

/-- Settles O58: the accepting step puts the waveform ahead of the line, `j - 1` steps send its first `j - 1` values,
and its last step completes the TX. -/
theorem txPutsTheWaveformOnTheLine : Obligations.TxPutsTheWaveformOnTheLine := by
  intro s w hs ha hd hnr hst
  obtain ⟨u, hu, hui, huf, hfb, hwave⟩ := step_accepts_tx hs ha hd
  have hleft : u.sd.waveLeft u.cfg u.fb = waveform s.cfg s.fb := by rw [(step_env hu).1, hfb, hwave]
  have hlen : (u.sd.waveLeft u.cfg u.fb).length = frameLength s.cfg s.fb := by rw [hleft, waveform_length]
  have hunr := hnr.tail hu
  have hust := hst.unstalled hu
  refine ⟨fun j hj1 hj => ?_, ?_⟩
  · obtain ⟨k, rfl⟩ := Nat.exists_eq_add_of_le' hj1
    have hk : k ≤ frameLength s.cfg s.fb := Nat.le_of_succ_le hj
    obtain ⟨t, ht, hne, -, hdrop⟩ := frame_runs hui huf (hunr.mono hk) (hust.mono hk) (by omega)
    refine ⟨t, ⟨u, hu, ht⟩, ?_, ?_⟩
    · rw [SignalRegs.waveLeft_eq_cons hne, hleft] at hdrop
      rw [Nat.add_sub_cancel, ← List.head?_drop, ← hdrop]
      rfl
    · simp [State.output, (stepsTo_inv hui ht).tx.mpr hne]
  · obtain ⟨k, hk⟩ : ∃ k, frameLength s.cfg s.fb = k + 1 :=
      Nat.exists_eq_add_one.mpr (Nat.add_pos_right _ (Config.tres_pos hs.legal))
    rw [hk] at hunr hust hlen ⊢
    obtain ⟨t, ht, hidle, hready, hrsp⟩ := frame_completes hui huf hunr hust hlen
    have hlow : t.sd.dout = false := by simpa [hidle] using (stepsTo_inv hui ht).dout
    exact ⟨t, ⟨u, hu, ht⟩, hready, hrsp, hidle, hlow⟩

end Sys2Proof.Machine
end

section
/-! One step of a running frame (42_signal_driver.md R99 to R105). -/

namespace Sys2Proof.Machine

variable {s : State}

/-- The step of a running frame writes what SdStep gives; the controller stays in BUSY_TX until the frame is done and
completes the TX in that step (42_signal_driver.md R105). -/
theorem step_of_sending (hs : s.Inv) (hr : s.input.rst = false) (hne : s.sd.phase ≠ .idle) :
    ∃ o t, sdStep s s.input.preempt = .ok o ∧ step s = .next t ∧ t.sd = o.regs ∧
      (o.done = false → t.ctl = .busyTx) ∧ (o.done = true → t.ctl = .ready ∧ t.rsp = ⟨true, 0, 0⟩) := by
  obtain ⟨o, ho⟩ := sdStep_answers hs s.input.preempt
  have hbusy : s.ctl = .busyTx := hs.tx.mpr hne
  have hc : controlStep s s.input.cmdValid s.input.cmdWord o.done = .next (txStep s o.done) := by
    rw [controlStep, hbusy]
  refine ⟨o, _, ho, step_of_units hs.legal hr ho hc, by rw [merge_sd, if_neg hne], fun hd => ?_, fun hd => ?_⟩ <;>
    rw [hd]
  · exact hbusy
  · exact ⟨rfl, rfl⟩

/-- The SD_HIGH step counts, or drops the line (42_signal_driver.md R101). -/
theorem highStep_cases (s : State) :
    (0 < s.sd.cnt ∧ highStep s = { s.sd with cnt := s.sd.cnt - 1 }) ∨
      (s.sd.cnt = 0 ∧ highStep s = { s.sd with dout := false, phase := .low, cnt := s.cfg.tl s.sd.curBit - 1 }) := by
  unfold highStep
  split
  · exact .inl ⟨‹_›, rfl⟩
  · exact .inr ⟨by omega, rfl⟩

/-- Settles O52: the unit's registers become those of the SD_HIGH step. -/
theorem highPhaseStep : Obligations.HighPhaseStep := by
  intro s hs hr hp hst
  obtain ⟨o, t, ho, ht, hsd, hbusy, -⟩ := step_of_sending hs hr (by simp [hp])
  obtain rfl : o = ⟨highStep s, false⟩ := by simpa [hst, hp] using sdStep_cases ho
  refine ⟨t, ht, hbusy rfl, ?_⟩
  rcases highStep_cases s with ⟨hc, h⟩ | ⟨hc, h⟩ <;> rw [h] at hsd
  · exact ⟨fun _ => ⟨hsd, hsd ▸ hs.dout.mpr hp⟩, fun hz => absurd hz hc.ne'⟩
  · exact ⟨fun hpos => absurd hc hpos.ne', fun _ => hsd⟩

/-- Settles O54: the unit's registers become those of the SD_GAP step, which is done in its last cycle. -/
theorem gapStepCompletesTheFrame : Obligations.GapStepCompletesTheFrame := by
  intro s hs hr hp hst
  have hlow : s.sd.dout = false := by simpa [hp] using hs.dout
  obtain ⟨o, t, ho, ht, hsd, hbusy, hdone⟩ := step_of_sending hs hr (by simp [hp])
  obtain rfl : o = gapStep s := by simpa [hst, hp] using sdStep_cases ho
  refine ⟨t, ht, ?_⟩
  rcases gapStep_cases s with ⟨hc, h⟩ | ⟨hc, h⟩ <;> rw [h] at hsd hbusy hdone
  · exact ⟨fun _ => ⟨hsd, hsd ▸ hlow, hbusy rfl⟩, fun hz => absurd hz hc.ne'⟩
  · refine ⟨fun hpos => absurd hc hpos.ne', fun _ => ?_⟩
    rw [hsd]
    exact ⟨rfl, rfl, rfl, rfl, rfl, rfl, rfl, hdone rfl⟩

/-- Settles O53: the unit's registers become those of the SD_LOW step: a count, the gap begun, or the bit begun that
Advance moves to. -/
theorem lowPhaseStep : Obligations.LowPhaseStep := by
  intro s hs hr hp hst
  have hlow : s.sd.dout = false := by simpa [hp] using hs.dout
  obtain ⟨o, t, ho, ht, hsd, hbusy, -⟩ := step_of_sending hs hr (by simp [hp])
  obtain ⟨r, hstep, rfl⟩ : ∃ r, lowStep s = .ok r ∧ o = ⟨r, false⟩ := by simpa [hst, hp] using sdStep_cases ho
  refine ⟨t, ht, hbusy rfl, ?_⟩
  rw [hsd]
  rcases lowStep_cases hstep with ⟨hc, rfl⟩ | ⟨hc, hlast, rfl⟩ | ⟨hc, hlast, hadv⟩
  · exact ⟨fun _ => ⟨rfl, hlow⟩, fun hz => absurd hz hc.ne', fun hz => absurd hz hc.ne'⟩
  · exact ⟨fun hpos => absurd hc hpos.ne', fun _ _ => ⟨rfl, hlow⟩, fun _ hno => by simp [hlast] at hno⟩
  · refine ⟨fun hpos => absurd hc hpos.ne', fun _ hyes => by simp [hlast] at hyes, fun _ _ => ?_⟩
    rcases advanceBit_cases hadv with ⟨hb, rfl⟩ | ⟨hb, hsl, -, rfl⟩ | ⟨hb, hsl, hnext, rfl⟩
    · have hbit : (s.sd.bit - 1).toNat = s.sd.bit.toNat - 1 := by bv_omega
      exact ⟨rfl, rfl, rfl, fun _ => ⟨rfl, rfl, hbit, rfl⟩, fun hz => absurd hz hb.ne', fun hz => absurd hz hb.ne'⟩
    · have hslot : (s.sd.slot + 1).toNat = s.sd.slot.toNat + 1 := by bv_omega
      exact ⟨rfl, rfl, rfl, fun hpos => absurd hb hpos.ne', fun _ _ => ⟨rfl, hslot, rfl, rfl⟩,
        fun _ h3 => absurd h3 hsl.ne⟩
    · have hled := Config.led_succ_toNat hs.legal hnext
      exact ⟨rfl, rfl, rfl, fun hpos => absurd hb hpos.ne', fun _ h3 => absurd hsl h3.ne,
        fun _ _ => ⟨hled, hled.trans_lt hnext, rfl, rfl, rfl⟩⟩

end Sys2Proof.Machine
end

section
/-! Preemption (42_signal_driver.md R100), and what a step reads of the scheduled inputs: the present cycle's, and the
later cycles' to pass them on. -/

namespace Sys2Proof.Machine

variable {s : State}

/-- An outcome with other inputs scheduled in its next state. -/
def outcomeWithInputs (l : List Input) : Host.Outcome State Fault Refusal → Host.Outcome State Fault Refusal
  | .next t => .next { t with inputs := l }
  | .fault f => .fault f
  | .refused r => .refused r

/-- No command reads the scheduled inputs. -/
theorem exec_withInputs (i : Instr) (s : State) (l : List Input) :
    exec i { s with inputs := l } = outcomeWithInputs l (exec i s) := by
  cases i with
  | nop => rfl
  | fbSet idx color => simp only [exec, execFbSet]; split <;> rfl
  | fbGet idx => simp only [exec, execFbGet]; split <;> rfl
  | tx => simp only [exec, execTx, State.frameRead]; split_ifs <;> rfl
  | delay ms => rfl
  | rdUptime => rfl
  | rdStatus => rfl

/-- Acceptance decodes the word it is given. -/
theorem accept_withInputs (s : State) (l : List Input) (w : CmdWord) :
    accept { s with inputs := l } w = outcomeWithInputs l (accept s w) := by
  simp only [accept]
  cases decode s.cfg.uptimeW w with
  | ok i => exact exec_withInputs i s l
  | error e => rfl

/-- ControlStep acts on the port's inputs that it is given. -/
theorem controlStep_withInputs (s : State) (l : List Input) (v : Bool) (w : CmdWord) (done : Bool) :
    controlStep { s with inputs := l } v w done = outcomeWithInputs l (controlStep s v w done) := by
  obtain ⟨cfg, fb, uptime, deadline, pending, ctl, sd, rsp, code, cmd, inputs, cycle⟩ := s
  cases ctl with
  | ready =>
    cases v
    · rfl
    · exact accept_withInputs _ l w
  | busyTx => cases done <;> rfl
  | busyDelay => simp only [controlStep, delayStep]; split_ifs <;> rfl
  | halted => rfl

/-- The merge of a step passes on the inputs of the later cycles. -/
theorem merge_withInputs {c : State} {l : List Input} (h : l.tail = c.inputs.tail) (tb : TimeBaseOut) (r : SignalRegs) :
    merge { s with inputs := l } tb r { c with inputs := l } = merge s tb r c := by
  simp only [merge, State.advanceEnv, h]

/-- A step on given inputs passes on those of the later cycles and reads no other scheduled input. -/
theorem cycleStep_withInputs {l : List Input} (h : l.tail = s.inputs.tail) (inp : Input) :
    cycleStep { s with inputs := l } inp = cycleStep s inp := by
  have hreset : State.advanceEnv (State.toReset { s with inputs := l }) = s.toReset.advanceEnv := by
    simp only [State.toReset, State.advanceEnv, State.resetWith, h]
  have hsd : sdStep { s with inputs := l } inp.preempt = sdStep s inp.preempt := rfl
  have hunits : unitsStep { s with inputs := l } inp = unitsStep s inp := by
    rw [unitsStep, unitsStep, hsd]
    cases sdStep s inp.preempt with
    | error f => rfl
    | ok o =>
      dsimp only
      rw [controlStep_withInputs]
      cases hc : controlStep s inp.cmdValid inp.cmdWord o.done with
      | fault f => rfl
      | refused r => rfl
      | next c =>
        obtain ⟨-, hin, -⟩ := controlStep_keeps_env hc
        exact congrArg Host.Outcome.next (merge_withInputs (h.trans (congrArg List.tail hin.symm)) _ _)
  rw [cycleStep, cycleStep, hreset, hunits]

/-- With frames masked the SignalDriver takes no notice of preemption. -/
theorem sdStep_of_txMasksIrq (h : s.cfg.txMasksIrq = true) (p q : Bool) : sdStep s p = sdStep s q := by
  by_cases hidle : s.sd.phase = .idle
  · rw [sdStep_idle hidle, sdStep_idle hidle]
  · have hnostall : ∀ preempt, s.stalled preempt = false := by simp [State.stalled, State.masked, h, hidle]
    simp only [sdStep, hnostall]

/-- Settles O55: a stall step keeps the unit's registers; with frames masked only SdStep could read `preempt`, and it
does not. -/
theorem preemptStallsOnlyUnmaskedFrames : Obligations.PreemptStallsOnlyUnmaskedFrames := by
  refine ⟨fun s t hs hr hne hp hm h => ?_, fun s inp rest p hmask hin => ?_⟩
  · obtain ⟨o, t', ho, ht', hsd, hbusy, -⟩ := step_of_sending hs hr hne
    obtain rfl : t' = t := Host.Outcome.next.inj (ht'.symm.trans h)
    have hstall : sdStep s s.input.preempt = .ok ⟨s.sd, false⟩ := if_pos (by simp [State.stalled, hp, hm])
    obtain rfl : o = ⟨s.sd, false⟩ := Except.ok.inj (ho.symm.trans hstall)
    exact ⟨hsd, hbusy rfl⟩
  · have hinput : s.input = inp := by simp [State.input, State.inputAt, hin]
    have hcycle : cycleStep s { inp with preempt := p } = cycleStep s inp := by
      simp only [cycleStep, unitsStep, sdStep_of_txMasksIrq hmask p inp.preempt]
    have hlater : ({ inp with preempt := p } :: rest).tail = s.inputs.tail := by rw [hin]; rfl
    rw [step, step, hinput]
    exact congrArg (if s.cfg.legal then · else .refused .illegalConfig) ((cycleStep_withInputs hlater _).trans hcycle)

end Sys2Proof.Machine
end

section
/-! The receiver on a frame's waveform (42_signal_driver.md R110, R111): each round reads one bit, and the reset gap
behind the last bit's low phase ends the frame. -/

namespace Sys2Proof

theorem Config.tl_le_max (c : Config) (b : Bool) : c.tl b ≤ max c.t0l c.t1l := by
  cases b
  · exact le_max_left ..
  · exact le_max_right ..

theorem Config.min_le_tl (c : Config) (b : Bool) : min c.t0l c.t1l ≤ c.tl b := by
  cases b
  · exact min_le_left ..
  · exact min_le_right ..

end Sys2Proof

namespace Sys2Proof.Machine

variable {c : Config}

/-- The threshold lies between the two high phases (42_signal_driver.md R94 item 2). -/
theorem receivedBit_th (h : c.t0h < c.t1h) (b : Bool) : receivedBit c (c.th b) = b := by
  cases b
  · exact decide_eq_false (show ¬ c.t0h + c.t1h < 2 * c.t0h by omega)
  · exact decide_eq_true (show c.t0h + c.t1h < 2 * c.t1h by omega)

/-- One round reads a high run and the low run after it, and goes on at the rising edge behind them. -/
theorem receiveLoop_run {fuel h l : Nat} {rest : List Bool} (hl : 1 ≤ l) (hrest : rest.head? ≠ some false) :
    receiveLoop c (fuel + 1) (List.replicate h true ++ (List.replicate l false ++ rest)) =
      receivedBit c h :: (if max c.t0l c.t1l < l ∨ rest = [] then [] else receiveLoop c fuel rest) := by
  obtain ⟨m, rfl⟩ := Nat.exists_eq_add_of_le' hl
  have hhigh : ∀ x ∈ List.replicate h true, id x = true := fun x hx => List.eq_of_mem_replicate hx
  have hlow : ∀ x ∈ List.replicate (m + 1) false, (!x) = true := fun x hx => by rw [List.eq_of_mem_replicate hx]; rfl
  have hfall : (List.replicate (m + 1) false ++ rest).takeWhile id = [] ∧
      (List.replicate (m + 1) false ++ rest).dropWhile id = List.replicate (m + 1) false ++ rest := ⟨rfl, rfl⟩
  have hrise : rest.takeWhile not = [] ∧ rest.dropWhile not = rest := by
    match rest with
    | [] => exact ⟨rfl, rfl⟩
    | true :: bs => exact ⟨rfl, rfl⟩
    | false :: bs => exact absurd rfl hrest
  simp only [receiveLoop, List.takeWhile_append_of_pos hhigh, List.dropWhile_append_of_pos hhigh, hfall,
    List.takeWhile_append_of_pos hlow, List.dropWhile_append_of_pos hlow, hrise, List.append_nil, List.length_replicate]

/-- Each bit begins with the line high. -/
theorem head?_bitWave_append (hl : c.legal = true) (b : Bool) (rest : List Bool) :
    (bitWave c b ++ rest).head? = some true := by
  obtain ⟨m, hm⟩ := Nat.exists_eq_add_of_le' (Config.th_pos hl b)
  rw [bitWave, hm]
  rfl

/-- A round on a bit that another rising edge follows reads the bit and goes on there. -/
theorem receiveLoop_bit (hl : c.legal = true) (fuel : Nat) (b : Bool) {rest : List Bool}
    (hrest : rest.head? = some true) :
    receiveLoop c (fuel + 1) (bitWave c b ++ rest) = b :: receiveLoop c fuel rest := by
  obtain ⟨-, -, -, -, hth, -⟩ := (Config.legal_iff c).mp hl
  have hgo : ¬ (max c.t0l c.t1l < c.tl b ∨ rest = []) := by
    rintro (hlong | rfl)
    · exact hlong.not_ge (Config.tl_le_max c b)
    · cases hrest
  rw [bitWave, List.append_assoc, receiveLoop_run (Config.tl_pos hl b) (by simp [hrest]), receivedBit_th hth,
    if_neg hgo]

/-- A round on the frame's last bit reads it and stops, for the gap makes its low run too long. -/
theorem receiveLoop_lastBit (hl : c.legal = true) (hgap : max c.t0l c.t1l - min c.t0l c.t1l < c.tres) (fuel : Nat)
    (b : Bool) : receiveLoop c (fuel + 1) (bitWave c b ++ List.replicate c.tres false) = [b] := by
  obtain ⟨-, -, -, -, hth, -⟩ := (Config.legal_iff c).mp hl
  have hmin := Config.min_le_tl c b
  have hstop : max c.t0l c.t1l < c.tl b + c.tres := by omega
  have hwave : bitWave c b ++ List.replicate c.tres false =
      List.replicate (c.th b) true ++ (List.replicate (c.tl b + c.tres) false ++ []) := by simp [bitWave]
  rw [hwave, receiveLoop_run (by omega) (by simp), receivedBit_th hth, if_pos (.inl hstop)]

/-- The receiver reads back the bits sent before a gap that is longer than the low phases differ. -/
theorem receiveLoop_frame (hl : c.legal = true) (hgap : max c.t0l c.t1l - min c.t0l c.t1l < c.tres) {fuel : Nat}
    (b : Bool) (bits : List Bool) (hfuel : bits.length ≤ fuel) :
    receiveLoop c (fuel + 1) ((b :: bits).flatMap (bitWave c) ++ List.replicate c.tres false) = b :: bits := by
  induction bits generalizing b fuel with
  | nil => simpa using receiveLoop_lastBit hl hgap fuel b
  | cons b' bits ih =>
    have hedge : ((b' :: bits).flatMap (bitWave c) ++ List.replicate c.tres false).head? = some true := by
      rw [List.flatMap_cons, List.append_assoc]
      exact head?_bitWave_append hl b' _
    obtain ⟨fuel, rfl⟩ := Nat.exists_eq_add_of_le' (Nat.one_le_of_lt hfuel)
    rw [List.flatMap_cons, List.append_assoc, receiveLoop_bit hl _ b hedge, ih b' (Nat.le_of_succ_le_succ hfuel)]

/-- A bit lasts a cycle at least, so the waveform has a value for each bit of the frame. -/
theorem serialize_length_le (hl : c.legal = true) (fb : FrameBuffer) :
    (serialize c fb).length ≤ (waveform c fb).length := by
  have hone : ∀ x ∈ (serialize c fb).map fun b => c.th b + c.tl b, 1 ≤ x :=
    List.forall_mem_map.mpr fun b _ => Nat.le_add_right_of_le (Config.th_pos hl b)
  calc (serialize c fb).length = ((serialize c fb).map fun b => c.th b + c.tl b).length := (List.length_map _).symm
    _ ≤ ((serialize c fb).map fun b => c.th b + c.tl b).sum := List.length_le_sum_of_one_le _ hone
    _ ≤ (waveform c fb).length := (Nat.le_add_right ..).trans_eq (waveform_length c fb).symm

/-- The receiver reads back the frame's bits (42_signal_driver.md R111). -/
theorem receive_waveform (hl : c.legal = true) (hgap : max c.t0l c.t1l - min c.t0l c.t1l < c.tres) (fb : FrameBuffer) :
    receive c (waveform c fb) = serialize c fb := by
  obtain ⟨⟨hn, -⟩, -⟩ := (Config.legal_iff c).mp hl
  have hlen := serialize_length_le hl fb
  rw [receive]
  generalize (waveform c fb).length = fuel at hlen ⊢
  rw [waveform]
  cases hbits : serialize c fb with
  | nil =>
    have hnone := serialize_length c fb
    rw [hbits, List.length_nil] at hnone
    omega
  | cons b bits =>
    rw [hbits] at hlen
    exact receiveLoop_frame hl hgap b bits (Nat.le_of_succ_le hlen)

end Sys2Proof.Machine
end

section
/-! Bits grouped into bytes and bytes into Colors (42_signal_driver.md R110, R111). -/

namespace Sys2Proof

/-- `ORDER` is a permutation: four different slots hold all four channels (00_scope.md R9). -/
theorem ChannelOrder.mem_toList {o : ChannelOrder} (h : o.toList.Nodup) (x : Channel) : x ∈ o.toList := by
  have hall : ∀ y : Channel, y ∈ [Channel.r, .g, .b, .w] := fun y => by cases y <;> decide
  have hperm : o.toList.Perm [.r, .g, .b, .w] := (List.subperm_of_subset h fun y _ => hall y).perm_of_length_le le_rfl
  exact hperm.mem_iff.mpr (hall x)

end Sys2Proof

namespace Sys2Proof.Machine

/-- Eight bits a byte, from byte `a` on. -/
theorem groupBytes_range' (f : Nat → Bool) (a m : Nat) :
    groupBytes ((List.range' (8 * a) (8 * m)).map f) =
      (List.range' a m).map fun q => byteOfBits (f (8 * q)) (f (8 * q + 1)) (f (8 * q + 2)) (f (8 * q + 3))
        (f (8 * q + 4)) (f (8 * q + 5)) (f (8 * q + 6)) (f (8 * q + 7)) := by
  induction m generalizing a with
  | zero => rfl
  | succ m ih => exact congrArg (_ :: ·) (ih (a + 1))

/-- Four bytes a Color, from LED `a` on. -/
theorem groupColors_range' (o : ChannelOrder) (g : Nat → Byte) (a m : Nat) :
    groupColors o ((List.range' (4 * a) (4 * m)).map g) =
      (List.range' a m).map fun i => colorOfWire o (g (4 * i)) (g (4 * i + 1)) (g (4 * i + 2)) (g (4 * i + 3)) := by
  induction m generalizing a with
  | zero => rfl
  | succ m ih => exact congrArg (_ :: ·) (ih (a + 1))

/-- A byte is made of its bits. -/
theorem byteOfBits_getLsbD (b : Byte) :
    byteOfBits (b.getLsbD 7) (b.getLsbD 6) (b.getLsbD 5) (b.getLsbD 4) (b.getLsbD 3) (b.getLsbD 2) (b.getLsbD 1)
      (b.getLsbD 0) = b := by
  have hbit : ∀ k, BitVec.ofBool (b.getLsbD k) = b.extractLsb' k 1 := fun k => by
    ext i hi
    simp [Nat.lt_one_iff.mp hi]
  have hjoin : ∀ k n, b.extractLsb' (k + 1) n ++ b.extractLsb' k 1 = b.extractLsb' k (n + 1) := fun k n =>
    BitVec.extractLsb'_append_extractLsb'_eq_extractLsb' rfl
  simp only [byteOfBits, hbit]
  rw [hjoin 6 1, hjoin 5 2, hjoin 4 3, hjoin 3 4, hjoin 2 5, hjoin 1 6, hjoin 0 7, BitVec.extractLsb'_eq_self]

/-- Bit `k` of the frame's byte `q`, the most significant first (20_memory.md R49). -/
theorem frameBit_byte (c : Config) (fb : FrameBuffer) (q : Nat) {k : Nat} (hk : k < 8) :
    frameBit c fb (8 * q + k) = (wireByte c.order (fb.read (q / 4)) (BitVec.ofNat 2 (q % 4))).getLsbD (7 - k) := by
  rw [frameBit, show (8 * q + k) / 32 = q / 4 by omega, show (8 * q + k) % 32 / 8 = q % 4 by omega,
    show (8 * q + k) % 8 = k by omega]

/-- The bytes of a frame are its wire bytes. -/
theorem groupBytes_serialize (c : Config) (fb : FrameBuffer) :
    groupBytes (serialize c fb) =
      (List.range (4 * c.n)).map fun q => wireByte c.order (fb.read (q / 4)) (BitVec.ofNat 2 (q % 4)) := by
  have hbytes := groupBytes_range' (frameBit c fb) 0 (4 * c.n)
  rw [Nat.mul_zero, show 8 * (4 * c.n) = 32 * c.n by omega, ← List.range_eq_range', ← List.range_eq_range'] at hbytes
  rw [serialize, hbytes]
  refine List.map_congr_left fun q _ => ?_
  have hfirst := frameBit_byte c fb q (k := 0) (by decide)
  rw [Nat.add_zero] at hfirst
  simp (disch := decide) only [hfirst, frameBit_byte, Nat.reduceSub, byteOfBits_getLsbD]

/-- The slot of a channel carries that channel. -/
theorem slotByte_chan {o : ChannelOrder} (h : o.toList.Nodup) (color : Color) (x : Channel) :
    slotByte o (chan color o.slot0) (chan color o.slot1) (chan color o.slot2) (chan color o.slot3) x =
      chan color x := by
  have hx : x = o.slot0 ∨ x = o.slot1 ∨ x = o.slot2 ∨ x = o.slot3 := by
    simpa [ChannelOrder.toList] using ChannelOrder.mem_toList h x
  unfold slotByte
  split_ifs with h0 h1 h2
  · rw [h0]
  · rw [h1]
  · rw [h2]
  · rw [hx.resolve_left (Ne.symm h0) |>.resolve_left (Ne.symm h1) |>.resolve_left (Ne.symm h2)]

/-- The four wire bytes of a Color map back to it (20_memory.md R49, 42_signal_driver.md R111). -/
theorem colorOfWire_wireByte {o : ChannelOrder} (h : o.toList.Nodup) (color : Color) :
    colorOfWire o (wireByte o color 0) (wireByte o color 1) (wireByte o color 2) (wireByte o color 3) = color := by
  change colorOfWire o (chan color o.slot0) (chan color o.slot1) (chan color o.slot2) (chan color o.slot3) = color
  simp only [colorOfWire, slotByte_chan h, packColor_chan]

/-- The wire bytes of the LEDs in order group into their Colors. -/
theorem groupColors_wireBytes {o : ChannelOrder} (h : o.toList.Nodup) (fb : FrameBuffer) (n : Nat) :
    groupColors o ((List.range (4 * n)).map fun q => wireByte o (fb.read (q / 4)) (BitVec.ofNat 2 (q % 4))) =
      (List.range n).map fb.read := by
  have hcolors := groupColors_range' o (fun q => wireByte o (fb.read (q / 4)) (BitVec.ofNat 2 (q % 4))) 0 n
  rw [Nat.mul_zero, ← List.range_eq_range', ← List.range_eq_range'] at hcolors
  rw [hcolors]
  refine List.map_congr_left fun i _ => ?_
  have hled : ∀ k, k < 4 → (4 * i + k) / 4 = i ∧ (4 * i + k) % 4 = k := fun k hk => by omega
  have hfirst := hled 0 (by decide)
  rw [Nat.add_zero] at hfirst
  simp (disch := decide) only [hfirst, hled]
  exact colorOfWire_wireByte h (fb.read i)

/-- Settles O60: the receiver's rounds read the bits, which group into wire bytes and these into the Colors. -/
theorem receiverReadsBackTheFrame : Obligations.ReceiverReadsBackTheFrame := by
  intro c fb hl hgap
  obtain ⟨-, -, -, -, -, horder, -⟩ := (Config.legal_iff c).mp hl
  have hbits := receive_waveform hl hgap fb
  refine ⟨hbits, ?_⟩
  rw [receivedColors, hbits, groupBytes_serialize, groupColors_wireBytes horder]

end Sys2Proof.Machine
end

section
/-! NOP and RD_STATUS (43_port_and_status.md R117, R118, 10_state.md R35). -/

namespace Sys2Proof.Machine

/-- Settles O10: `respond` is NOP's whole effect, the all-zero word is its encoding, and it is of format Z. -/
theorem nopAnswersOk : Obligations.NopAnswersOk :=
  ⟨fun _ => rfl, fun _ => decode_encode (i := .nop) rfl, fun _ _ hop => decode_formatZ_rejects (.inl hop)⟩

variable (s : State)

/-- The four flags, in the order of the table (10_state.md R35). -/
theorem statusWord_flags :
    s.statusWord.getLsbD 0 = decide (s.sd.phase ≠ .idle) ∧ s.statusWord.getLsbD 1 = decide (s.ctl = .busyDelay) ∧
      s.statusWord.getLsbD 2 = s.tickPending ∧ s.statusWord.getLsbD 3 = s.cfg.txMasksIrq := by
  simp only [State.statusWord, flagBit, BitVec.getLsbD_append]
  refine ⟨?_, ?_, ?_, ?_⟩ <;> simp

/-- The three fields above the flags, each reached by dropping what is appended below it. -/
theorem statusWord_fields :
    s.statusWord.extractLsb' 4 4 = s.faultCode ∧
      s.statusWord.extractLsb' 8 8 = BitVec.ofNat 8 s.cfg.uptimeW ∧
      s.statusWord.extractLsb' 16 16 = BitVec.ofNat 16 s.cfg.n := by
  simp (disch := decide) only [State.statusWord, BitVec.extractLsb'_append_eq_of_le, Nat.reduceSub]
  exact ⟨BitVec.extractLsb'_append_eq_right, BitVec.extractLsb'_append_eq_right, BitVec.extractLsb'_eq_self⟩

/-- Settles O17: the fields of the STATUS word. N and UPTIME_W of a legal build fit theirs; in READY the unit is idle by
INV-TX and the code is 0 by INV-HALT. -/
theorem rdStatusAnswersTheStatusWord : Obligations.RdStatusAnswersTheStatusWord := by
  refine ⟨fun s hl => ?_, fun _ => decode_encode (i := .rdStatus) rfl, fun s t hs hready h => ?_,
    fun _ _ hop => decode_formatZ_rejects (.inr (.inr (.inr hop)))⟩
  · obtain ⟨⟨-, hn⟩, ⟨-, hw⟩, -⟩ := (Config.legal_iff s.cfg).mp hl
    obtain ⟨h0, h1, h2, h3⟩ := statusWord_flags s
    obtain ⟨hcode, hwidth, hlength⟩ := statusWord_fields s
    refine ⟨_, rfl, rfl, rfl, h0, h1, h2, h3, hcode, ?_, ?_, rfl⟩
    · rw [State.respond_rsp, hwidth, BitVec.toNat_ofNat, Nat.mod_eq_of_lt (by omega)]
    · rw [State.respond_rsp, hlength, BitVec.toNat_ofNat, Nat.mod_eq_of_lt (by omega)]
  · cases h
    have hidle : s.sd.phase = .idle := hs.idle_of_ctl (by simp [hready])
    have hcode : s.faultCode = 0 := by simpa [hready] using hs.halt
    obtain ⟨h0, h1, -⟩ := statusWord_flags s
    obtain ⟨hfield, -⟩ := statusWord_fields s
    exact ⟨h0.trans (by simp [hidle]), h1.trans (by simp [hready]), hfield.trans hcode⟩

end Sys2Proof.Machine
end

section
/-! The step that accepts a word (43_port_and_status.md R114, 10_state.md R43). -/

namespace Sys2Proof.Machine

variable {s : State} {w : CmdWord}

/-- An outcome of ControlStep with the units' registers merged into its next state; a stop stays the stop it is. -/
def outcomeMerged (s : State) (tb : TimeBaseOut) (r : SignalRegs) :
    Host.Outcome State Fault Refusal → Host.Outcome State Fault Refusal
  | .next c => .next (merge s tb r c)
  | .fault f => .fault f
  | .refused r => .refused r

/-- The step is the acceptance of the word, merged, whatever the acceptance answers. -/
theorem step_eq_outcomeMerged_accept (ha : s.Accepts w) :
    step s = outcomeMerged s (timeBaseStep s s.input.tick s.masked) s.sd (accept s w) := by
  have hcontrol : controlStep s s.input.cmdValid s.input.cmdWord false = accept s w := by
    simp [controlStep, ha.ready, ha.valid, ha.word]
  rw [step, if_pos ha.legal, cycleStep, if_neg (by simp [ha.noReset]), unitsStep, sdStep_idle ha.idle]
  dsimp only
  rw [hcontrol]
  cases accept s w <;> rfl

theorem accept_of_decode_ok {i : Instr} (hd : decode s.cfg.uptimeW w = .ok i) : accept s w = exec i s := by
  rw [accept, hd]

theorem accept_of_decode_error {e : DecodeFault} (hd : decode s.cfg.uptimeW w = .error e) :
    accept s w = .next (s.raise (causeOf e) w) := by
  rw [accept, hd]

/-- The merge beside an idle SignalDriver keeps the `sd_*` registers that ControlStep gives. -/
theorem merge_of_idle {c : State} (hidle : s.sd.phase = .idle) (tb : TimeBaseOut) (r : SignalRegs) :
    merge s tb r c = { c with
      uptime := tb.uptime
      tickPending := tb.tickPending
      deadline := if tb.wrapped then 0 else c.deadline
      inputs := c.inputs.tail
      cycle := c.cycle + 1 } := by
  simp only [merge, if_pos hidle, State.advanceEnv]

/-- Settles O7: acceptance is exec of the decoded command, which writes neither the environment nor the step number. -/
theorem stepRunsTheDecodedCommand : Obligations.StepRunsTheDecodedCommand := by
  intro s w i ha hd
  rw [step_eq_outcomeMerged_accept ha, accept_of_decode_ok hd]
  refine ⟨fun c hc => ?_, fun f hf => by rw [hf]; rfl, fun r hr => by rw [hr]; rfl⟩
  obtain ⟨-, -, -, hinputs, hcycle⟩ := exec_keeps_timeBase hc
  rw [hc, outcomeMerged, merge_of_idle ha.idle, hinputs, hcycle]

/-- Every command answers a next state in a build that has an LED. -/
theorem exec_answers (hn : 0 < s.cfg.n) (i : Instr) : ∃ t, exec i s = .next t := by
  cases i with
  | nop => exact ⟨_, rfl⟩
  | fbSet idx color =>
    rcases Nat.lt_or_ge idx.toNat s.cfg.n with hlt | hle
    · exact ⟨_, exec_fbSet_of_lt hlt color⟩
    · exact ⟨_, exec_fbSet_of_le hle color⟩
  | fbGet idx =>
    rcases Nat.lt_or_ge idx.toNat s.cfg.n with hlt | hle
    · exact ⟨_, exec_fbGet_of_lt hlt⟩
    · exact ⟨_, exec_fbGet_of_le hle⟩
  | tx => exact ⟨_, exec_tx_of_pos hn⟩
  | delay ms => exact ⟨_, rfl⟩
  | rdUptime => exact ⟨_, rfl⟩
  | rdStatus => exact ⟨_, rfl⟩

/-- So does acceptance of any word, for a decode fault is entered as a next state. -/
theorem accept_answers (hn : 0 < s.cfg.n) (w : CmdWord) : ∃ t, accept s w = .next t := by
  cases hd : decode s.cfg.uptimeW w with
  | ok i => rw [accept_of_decode_ok hd]; exact exec_answers hn i
  | error e => exact ⟨_, accept_of_decode_error hd⟩

end Sys2Proof.Machine
end

section
/-! A word offered before the port is ready (43_port_and_status.md R115, R120). -/

namespace Sys2Proof.Machine

variable {s t : State} {k : Nat}

/-- Outside READY, ControlStep takes no notice of the port's inputs. -/
theorem controlStep_of_not_ready (h : s.ctl ≠ .ready) (v v' : Bool) (w w' : CmdWord) (done : Bool) :
    controlStep s v w done = controlStep s v' w' done := by
  unfold controlStep
  split
  · exact absurd ‹_› h
  · rfl
  · rfl
  · rfl

/-- A step is the same with another input in the present cycle on which the units act alike. -/
theorem step_withInput {inp inp' : Input} {rest : List Input} (hin : s.inputs = inp :: rest)
    (h : cycleStep s inp' = cycleStep s inp) : step { s with inputs := inp' :: rest } = step s := by
  have hinput : s.input = inp := by simp [State.input, State.inputAt, hin]
  have hlater : (inp' :: rest).tail = s.inputs.tail := by rw [hin]; rfl
  rw [step, step, hinput]
  exact congrArg (if s.cfg.legal then · else .refused .illegalConfig) ((cycleStep_withInputs hlater _).trans h)

/-- Settles O50: of the units only ControlStep reads the port's inputs, and in READY alone. -/
theorem offerWhileNotReadyHasNoEffect : Obligations.OfferWhileNotReadyHasNoEffect := by
  intro s inp rest v w hready hin
  refine step_withInput hin ?_
  simp only [cycleStep, unitsStep, controlStep_of_not_ready hready v inp.cmdValid w inp.cmdWord]

/-- A word that the host offers stands on the port until the block is ready, by the host's duty in each cycle. -/
theorem offer_stands (hh : s.HostHolds k) (hv : s.input.cmdValid = true)
    (hbusy : ∀ j u, j < k → StepsTo j s u → u.ctl ≠ .ready) (h : StepsTo k s t) :
    t.input.cmdValid = true ∧ t.input.cmdWord = s.input.cmdWord := by
  induction k generalizing t with
  | zero => rw [stepsTo_zero.mp h]; exact ⟨hv, rfl⟩
  | succ k ih =>
    obtain ⟨u, hu, -⟩ := stepsTo_last h
    obtain ⟨huv, huw⟩ := ih (fun j x hj => hh j x (hj.trans k.lt_succ_self))
      (fun j x hj => hbusy j x (hj.trans k.lt_succ_self)) hu
    obtain ⟨hnv, hnw⟩ := hh k u k.lt_succ_self hu (hbusy k u k.lt_succ_self hu) huv
    rw [State.input, stepsTo_inputAt h]
    exact ⟨hnv, hnw.trans huw⟩

/-- Settles O51: the held word stands on the port in the ready state, whose step is then the word's acceptance. -/
theorem heldWordIsAcceptedWhenReady : Obligations.HeldWordIsAcceptedWhenReady := by
  intro k s t hs hh hv hbusy hrun hready hr
  have ht : t.Inv := stepsTo_inv hs hrun
  obtain ⟨⟨hn, -⟩, -⟩ := (Config.legal_iff t.cfg).mp ht.legal
  obtain ⟨htv, htw⟩ := offer_stands hh hv hbusy hrun
  have hidle : t.sd.phase = .idle := ht.idle_of_ctl (by simp [hready])
  have ha : t.Accepts s.input.cmdWord := ⟨ht.legal, hready, hidle, hr, htv, htw⟩
  obtain ⟨c, hc⟩ := accept_answers hn s.input.cmdWord
  have hstep := step_eq_outcomeMerged_accept ha
  rw [hc, outcomeMerged, merge_of_idle hidle] at hstep
  refine ⟨ha, c, _, hc, hstep, rfl, rfl, rfl, rfl, rfl, rfl, fun i hd => ?_, fun e hd => ?_⟩ <;>
    rw [← stepsTo_cfg hrun] at hd
  · rw [← accept_of_decode_ok hd, hc]
  · obtain rfl := Host.Outcome.next.inj (hc.symm.trans (accept_of_decode_error hd))
    exact ⟨rfl, rfl, rfl⟩

end Sys2Proof.Machine
end

section
/-! The response pulse (43_port_and_status.md R116, R119). -/

namespace Sys2Proof

/-- The commands that are not complete when they are accepted (43_port_and_status.md R119). -/
def Instr.Waits (i : Instr) : Prop := i = .tx ∨ ∃ ms, i = .delay ms

end Sys2Proof

namespace Sys2Proof.Machine

variable {s t : State}

/-- The response register goes from `r` to an answer if a command completes; else to no answer, `rsp_status` and
`rsp_data` kept (43_port_and_status.md R116). -/
def Response.AnswersIff (r r' : Response) (completes : Prop) : Prop :=
  (completes ∧ r'.valid = true) ∨ (¬ completes ∧ r' = { r with valid := false })

/-- A command answers at its acceptance exactly if it does not wait; a fault is an answer. -/
theorem exec_answersIff {i : Instr} (h : exec i s = .next t) : s.rsp.AnswersIff t.rsp (¬ i.Waits) := by
  cases i with
  | nop => cases h; exact .inl ⟨by simp [Instr.Waits], rfl⟩
  | fbSet idx color => rcases execFbSet_cases h with ⟨-, rfl⟩ | ⟨-, rfl⟩ <;> exact .inl ⟨by simp [Instr.Waits], rfl⟩
  | fbGet idx => rcases execFbGet_cases h with ⟨-, rfl⟩ | ⟨-, rfl⟩ <;> exact .inl ⟨by simp [Instr.Waits], rfl⟩
  | tx => obtain ⟨-, rfl⟩ := execTx_cases h; exact .inr ⟨by simp [Instr.Waits], rfl⟩
  | delay ms => cases h; exact .inr ⟨by simp [Instr.Waits], rfl⟩
  | rdUptime => cases h; exact .inl ⟨by simp [Instr.Waits], rfl⟩
  | rdStatus => cases h; exact .inl ⟨by simp [Instr.Waits], rfl⟩

theorem accept_answersIff {w : CmdWord} (h : accept s w = .next t) :
    s.rsp.AnswersIff t.rsp (¬ ∃ i, decode s.cfg.uptimeW w = .ok i ∧ i.Waits) := by
  rcases accept_cases h with ⟨i, hd, he⟩ | ⟨e, hd, rfl⟩
  · simpa [hd] using exec_answersIff he
  · exact .inl ⟨by simp [hd], rfl⟩

/-- The step completes a command: at its acceptance, at the end of its frame, or at its deadline. -/
def State.Completes (s : State) : Prop :=
  (s.ctl = .ready ∧ s.input.cmdValid = true ∧
    ¬ ∃ i, decode s.cfg.uptimeW s.input.cmdWord = .ok i ∧ i.Waits) ∨
  (s.sd.phase = .gap ∧ s.sd.cnt = 0 ∧ s.stalled s.input.preempt = false) ∨
  (s.ctl = .busyDelay ∧ s.deadline.toNat ≤ s.uptime.toNat)

/-- Beside an idle SignalDriver a command completes at its acceptance or at its deadline. -/
theorem controlStep_answersIff {done : Bool} (hidle : s.sd.phase = .idle) (hntx : s.ctl ≠ .busyTx)
    (h : controlStep s s.input.cmdValid s.input.cmdWord done = .next t) : s.rsp.AnswersIff t.rsp s.Completes := by
  rcases controlStep_cases h with ⟨hc, hv, ha⟩ | ⟨hc, hv, rfl⟩ | ⟨hc, -⟩ | ⟨hc, rfl⟩ | ⟨hc, rfl⟩
  · simpa [State.Completes, hidle, hc, hv] using accept_answersIff ha
  · exact .inr ⟨by simp [State.Completes, hidle, hc, hv], rfl⟩
  · exact absurd hc hntx
  · rcases delayStep_cases s with ⟨hle, hd⟩ | ⟨hlt, hd⟩ <;> rw [hd]
    · exact .inl ⟨by simp [State.Completes, hc, hle], rfl⟩
    · exact .inr ⟨by simp [State.Completes, hidle, hc, hlt], rfl⟩
  · exact .inr ⟨by simp [State.Completes, hidle, hc], rfl⟩

/-- SdStep is done exactly in the last step of the gap that is no stall (42_signal_driver.md R104). -/
theorem sdStep_done_iff {preempt : Bool} {o : SdOut} (hne : s.sd.phase ≠ .idle) (h : sdStep s preempt = .ok o) :
    o.done = true ↔ s.sd.phase = .gap ∧ s.sd.cnt = 0 ∧ s.stalled preempt = false := by
  rcases sdStep_sending_cases hne h with ⟨hst, rfl⟩ | ⟨-, hc, rfl⟩ | ⟨-, hp, -, rfl⟩ | ⟨-, hp, -, -, rfl⟩ |
    ⟨-, hp, -, -, r, -, rfl⟩ | ⟨hst, hp, hc, rfl⟩
  · simp [hst]
  · simp [hc.ne']
  · simp [hp]
  · simp [hp]
  · simp [hp]
  · simp [hst, hp, hc]

/-- A step without reset answers exactly if it completes a command. -/
theorem step_answersIff (hs : s.Inv) (hr : s.input.rst = false) (h : step s = .next t) :
    s.rsp.AnswersIff t.rsp s.Completes := by
  rcases step_cases_of_inv hs h with ⟨hr', -⟩ | ⟨-, hidle, c, hc, rfl⟩ | ⟨-, hne, o, ho, rfl⟩
  · simp [hr] at hr'
  · rw [merge_rsp]
    exact controlStep_answersIff hidle (mt hs.tx.mp (not_not.mpr hidle)) hc
  · have hdone : s.Completes ↔ o.done = true := by simp [State.Completes, hs.tx.mpr hne, sdStep_done_iff hne ho]
    rcases txStep_cases s o.done with ⟨hd, ht⟩ | ⟨hd, ht⟩ <;> rw [ht]
    · exact .inl ⟨hdone.mpr hd, rfl⟩
    · exact .inr ⟨by simp [hdone, hd], rfl⟩

/-- Settles O49: `rsp_valid` is up in exactly one of the two cases of a step, and the other keeps the answer. -/
theorem responseFollowsTheCompletingStep : Obligations.ResponseFollowsTheCompletingStep := by
  intro s t hs hr h
  rcases step_answersIff hs hr h with ⟨hcompletes, hvalid⟩ | ⟨hnot, hrsp⟩
  · exact ⟨iff_of_true hvalid hcompletes, fun hno => by simp [hvalid] at hno⟩
  · rw [hrsp]
    exact ⟨iff_of_false (by simp) hnot, fun _ => ⟨rfl, rfl⟩⟩

end Sys2Proof.Machine
end

section
/-! Fault entry: the words whose acceptance raises a fault, and what raises none (60_exceptions.md R122 to R124, R127). -/

namespace Sys2Proof

/-- The command is an FB_SET or FB_GET whose index is at or past `n` (41_framebuffer.md R85, R87). -/
def Instr.IndexPast (n : Nat) (i : Instr) : Prop :=
  ∃ idx : Index, (i = .fbGet idx ∨ ∃ color, i = .fbSet idx color) ∧ n ≤ idx.toNat

/-- The index check read off the fields of the command's word. -/
theorem Instr.indexPast_iff (n : Nat) (i : Instr) :
    i.IndexPast n ↔ ((opField (encode i)).toNat = 1 ∨ (opField (encode i)).toNat = 2) ∧
      n ≤ (idxField (encode i)).toNat := by
  cases i <;> simp [Instr.IndexPast, encode]

/-- The rows of the opcode map are the words decode accepts. -/
theorem hasRowForm_iff (uptimeW : Nat) (w : CmdWord) :
    hasRowForm uptimeW w = true ↔ ∃ i, decode uptimeW w = .ok i := by
  have hrows : hasRowForm uptimeW w = true ↔
      ∃ row ∈ opcodeTable, w &&& row.mask = row.pattern ∧ (row.op = 4 → (dataField w).toNat < 2 ^ uptimeW) := by
    simp [hasRowForm, imp_iff_not_or]
  rw [hrows]
  constructor
  · rintro ⟨row, hrow, hmask, hdata⟩
    obtain ⟨i, hd, -⟩ := (decodeAcceptsExactlyTheRowsOfTheMap uptimeW w row.op).mpr ⟨row, hrow, rfl, hmask, hdata⟩
    exact ⟨i, hd⟩
  · rintro ⟨i, hd⟩
    obtain ⟨row, hrow, hop, hmask, hdata⟩ := (decodeAcceptsExactlyTheRowsOfTheMap uptimeW w i.opcode).mp ⟨i, hd, rfl⟩
    exact ⟨row, hrow, hmask, hop ▸ hdata⟩

end Sys2Proof

namespace Sys2Proof.Machine

variable {s t : State} {i : Instr} {w : CmdWord} {f : Cause}

/-- Accepting `w` raises `f`: decode rejects it, or its index is past N (60_exceptions.md R122). -/
def State.Raises (s : State) (w : CmdWord) (f : Cause) : Prop :=
  (∃ e, decode s.cfg.uptimeW w = .error e ∧ f = causeOf e) ∨
    (∃ idx color, decode s.cfg.uptimeW w = .ok (.fbSet idx color) ∧ s.cfg.n ≤ idx.toNat ∧ f = .indexOutOfRange) ∨
    (∃ idx, decode s.cfg.uptimeW w = .ok (.fbGet idx) ∧ s.cfg.n ≤ idx.toNat ∧ f = .indexOutOfRange)

/-- Some fault is raised, its cause left open. -/
theorem State.exists_raises_iff :
    (∃ f, s.Raises w f) ↔
      (∃ e, decode s.cfg.uptimeW w = .error e) ∨
        (∃ idx color, decode s.cfg.uptimeW w = .ok (.fbSet idx color) ∧ s.cfg.n ≤ idx.toNat) ∨
        (∃ idx, decode s.cfg.uptimeW w = .ok (.fbGet idx) ∧ s.cfg.n ≤ idx.toNat) := by
  constructor
  · rintro ⟨f, ⟨e, hd, -⟩ | ⟨idx, color, hd, hle, -⟩ | ⟨idx, hd, hle, -⟩⟩
    · exact .inl ⟨e, hd⟩
    · exact .inr (.inl ⟨idx, color, hd, hle⟩)
    · exact .inr (.inr ⟨idx, hd, hle⟩)
  · rintro (⟨e, hd⟩ | ⟨idx, color, hd, hle⟩ | ⟨idx, hd, hle⟩)
    · exact ⟨_, .inl ⟨e, hd, rfl⟩⟩
    · exact ⟨_, .inr (.inl ⟨idx, color, hd, hle, rfl⟩)⟩
    · exact ⟨_, .inr (.inr ⟨idx, hd, hle, rfl⟩)⟩

/-- FB_SET and FB_GET past N enter the index fault, the command's encoding recorded. -/
theorem exec_of_indexPast (h : i.IndexPast s.cfg.n) : exec i s = .next (s.raise .indexOutOfRange (encode i)) := by
  obtain ⟨idx, rfl | ⟨color, rfl⟩, hle⟩ := h
  · exact exec_fbGet_of_le hle
  · exact exec_fbSet_of_le hle color

/-- A command that does not fail its index check writes no fault record and does not enter HALTED. -/
theorem exec_keeps_fault_of_not_indexPast (hno : ¬ i.IndexPast s.cfg.n) (h : exec i s = .next t) :
    t.faultCode = s.faultCode ∧ (t.ctl = .halted → s.ctl = .halted) := by
  cases i with
  | nop => cases h; exact ⟨rfl, id⟩
  | fbSet idx color =>
    rcases execFbSet_cases h with ⟨-, rfl⟩ | ⟨hle, -⟩
    · exact ⟨rfl, id⟩
    · exact absurd ⟨idx, .inr ⟨color, rfl⟩, hle⟩ hno
  | fbGet idx =>
    rcases execFbGet_cases h with ⟨-, rfl⟩ | ⟨hle, -⟩
    · exact ⟨rfl, id⟩
    · exact absurd ⟨idx, .inl rfl, hle⟩ hno
  | tx => obtain ⟨-, rfl⟩ := execTx_cases h; exact ⟨rfl, nofun⟩
  | delay ms => cases h; exact ⟨rfl, nofun⟩
  | rdUptime => cases h; exact ⟨rfl, id⟩
  | rdStatus => cases h; exact ⟨rfl, id⟩

/-- A decoded command past N raises the index fault. -/
theorem State.raises_of_indexPast (hd : decode s.cfg.uptimeW w = .ok i) (h : i.IndexPast s.cfg.n) :
    s.Raises w .indexOutOfRange := by
  obtain ⟨idx, rfl | ⟨color, rfl⟩, hle⟩ := h
  · exact .inr (.inr ⟨idx, hd, hle, rfl⟩)
  · exact .inr (.inl ⟨idx, color, hd, hle, rfl⟩)

/-- The word of an index fault is recorded as it was accepted, for it is its command's encoding. -/
theorem accept_of_indexPast (hd : decode s.cfg.uptimeW w = .ok i) (h : i.IndexPast s.cfg.n) :
    accept s w = .next (s.raise .indexOutOfRange w) := by
  rw [accept_of_decode_ok hd, exec_of_indexPast h, (decode_eq_ok_iff.mp hd).1]

/-- Acceptance of a word that raises a fault is fault entry with that word. -/
theorem accept_of_raises (h : s.Raises w f) : accept s w = .next (s.raise f w) := by
  rcases h with ⟨e, hd, rfl⟩ | ⟨idx, color, hd, hle, rfl⟩ | ⟨idx, hd, hle, rfl⟩
  · exact accept_of_decode_error hd
  · exact accept_of_indexPast hd ⟨idx, .inr ⟨color, rfl⟩, hle⟩
  · exact accept_of_indexPast hd ⟨idx, .inl rfl, hle⟩

/-- The step that accepts a faulting word is fault entry, merged (60_exceptions.md R124). -/
theorem step_of_raises (ha : s.Accepts w) (h : s.Raises w f) :
    step s = .next (merge s (timeBaseStep s s.input.tick s.masked) s.sd (s.raise f w)) := by
  rw [step_eq_outcomeMerged_accept ha, accept_of_raises h, outcomeMerged]

/-- Settles O8: fault entry merged beside the idle SignalDriver of an accepting state. -/
theorem faultingWordEntersHalted : Obligations.FaultingWordEntersHalted := by
  intro s w f ha h
  rw [step_of_raises ha h, merge_of_idle ha.idle]
  rfl

/-- Settles O9: a decoded word passes the first two checks, and past the third the code of a READY state is 0 by INV-HALT;
a rejected word fails the check that decode names. -/
theorem firstFailingCheckDecidesTheCode : Obligations.FirstFailingCheckDecidesTheCode := by
  refine ⟨fun s w hs ha => ?_, by decide⟩
  obtain ⟨⟨hn, -⟩, -⟩ := (Config.legal_iff s.cfg).mp hs.legal
  obtain ⟨c, hc⟩ := accept_answers hn w
  refine ⟨_, by rw [step_eq_outcomeMerged_accept ha, hc, outcomeMerged], ?_⟩
  have hop := decode_illegalOpcode_iff s.cfg.uptimeW w
  have hrow := hasRowForm_iff s.cfg.uptimeW w
  rw [merge_faultCode]
  rcases accept_cases hc with ⟨i, hd, he⟩ | ⟨e, hd, rfl⟩
  · have hpast := i.indexPast_iff s.cfg.n
    rw [(decode_eq_ok_iff.mp hd).1] at hpast
    rw [if_neg (by simp [← hop, hd]), if_neg (by simp [hrow.mpr ⟨i, hd⟩])]
    by_cases h : i.IndexPast s.cfg.n
    · cases (exec_of_indexPast h).symm.trans he
      rw [if_pos (hpast.mp h), State.raise_faultCode]
    · rw [if_neg (mt hpast.mpr h), (exec_keeps_fault_of_not_indexPast h he).1]
      simpa [ha.ready] using hs.halt
  · cases e with
    | illegalOpcode => rw [if_pos (hop.mp hd)]; rfl
    | reservedBits => rw [if_neg (by simp [← hop, hd]), if_pos (by simpa [hd] using hrow)]; rfl

/-- Settles O47: a reset enters READY, a frame and a delay keep `ctl` or complete into READY, and an accepted command that
does not fail its index check keeps READY or begins to wait. -/
theorem faultArisesOnlyFromTheAcceptedWord : Obligations.FaultArisesOnlyFromTheAcceptedWord := by
  intro s t hnh h hhalted
  obtain ⟨-, ⟨-, rfl⟩ | ⟨hr, o, c, -, hc, rfl⟩⟩ := step_cases h
  · cases hhalted
  rw [merge_ctl] at hhalted
  rcases controlStep_cases hc with ⟨hready, hv, ha⟩ | ⟨-, -, rfl⟩ | ⟨-, rfl⟩ | ⟨-, rfl⟩ | ⟨-, rfl⟩
  · refine ⟨hready, hr, hv, State.exists_raises_iff.mp ?_⟩
    rcases accept_cases ha with ⟨i, hd, he⟩ | ⟨e, hd, -⟩
    · by_cases hpast : i.IndexPast s.cfg.n
      · exact ⟨_, State.raises_of_indexPast hd hpast⟩
      · exact absurd ((exec_keeps_fault_of_not_indexPast hpast he).2 hhalted) hnh
    · exact ⟨_, .inl ⟨e, hd, rfl⟩⟩
  · exact absurd hhalted hnh
  · rcases txStep_cases s o.done with ⟨-, ht⟩ | ⟨-, ht⟩ <;> rw [ht] at hhalted
    · cases hhalted
    · exact absurd hhalted hnh
  · rcases delayStep_cases s with ⟨-, hd⟩ | ⟨-, hd⟩ <;> rw [hd] at hhalted
    · cases hhalted
    · exact absurd hhalted hnh
  · exact absurd hhalted hnh

/-- Settles O20: fault entry writes the four registers named and no Color. -/
theorem indexFaultChangesOnlyTheFaultRecord : Obligations.IndexFaultChangesOnlyTheFaultRecord := by
  intro i s t idx hi hle h
  cases (exec_of_indexPast ⟨idx, hi, hle⟩).symm.trans h
  exact ⟨rfl, fun _ => rfl⟩

end Sys2Proof.Machine
end

section
/-! Every step from a state with the invariants answers a next state (60_exceptions.md R123, 41_framebuffer.md R89). -/

namespace Sys2Proof.Machine

/-- ControlStep answers in a build that has an LED. -/
theorem controlStep_answers {s : State} (hn : 0 < s.cfg.n) (v : Bool) (w : CmdWord) (done : Bool) :
    ∃ c, controlStep s v w done = .next c := by
  unfold controlStep
  split
  · split
    · exact accept_answers hn w
    · exact ⟨_, rfl⟩
  · exact ⟨_, rfl⟩
  · exact ⟨_, rfl⟩
  · exact ⟨_, rfl⟩

/-- Settles O32: a reset step answers, and without reset each of the units does. -/
theorem noStepStopsTheMachine : Obligations.NoStepStopsTheMachine := by
  intro s hs
  cases hr : s.input.rst with
  | true => exact ⟨_, step_of_reset hs.legal hr⟩
  | false =>
    obtain ⟨⟨hn, -⟩, -⟩ := (Config.legal_iff s.cfg).mp hs.legal
    obtain ⟨o, ho⟩ := sdStep_answers hs s.input.preempt
    obtain ⟨c, hc⟩ := controlStep_answers hn s.input.cmdValid s.input.cmdWord o.done
    exact ⟨_, step_of_units hs.legal hr ho hc⟩

end Sys2Proof.Machine
end

section
/-! Runs in HALTED (60_exceptions.md R125, R126). -/

namespace Sys2Proof.Machine

variable {s t u : State} {k : Nat}

/-- `t` is HALTED with the stored data, the fault record and the answer of `s` (60_exceptions.md R125). -/
structure State.StaysHalted (s t : State) : Prop where
  ctl : t.ctl = .halted
  fb : t.fb = s.fb
  faultCode : t.faultCode = s.faultCode
  faultCmd : t.faultCmd = s.faultCmd
  status : t.rsp.status = s.rsp.status
  data : t.rsp.data = s.rsp.data

theorem State.StaysHalted.trans (h : s.StaysHalted t) (h' : t.StaysHalted u) : s.StaysHalted u :=
  ⟨h'.ctl, h'.fb.trans h.fb, h'.faultCode.trans h.faultCode, h'.faultCmd.trans h.faultCmd, h'.status.trans h.status,
    h'.data.trans h.data⟩

/-- A step in HALTED without reset ends the response and runs the TimeBase. -/
theorem step_of_halted (hs : s.Inv) (hr : s.input.rst = false) (hc : s.ctl = .halted) :
    step s = .next (merge s (timeBaseStep s s.input.tick false) s.sd s.noResponse) :=
  step_of_idle hs.legal hr (hs.idle_of_ctl (by simp [hc])) (by simp [controlStep, hc])

/-- A run in HALTED without reset, by induction from its last step. -/
theorem stepsTo_of_halted (hs : s.Inv) (hc : s.ctl = .halted) (hnr : s.NoResetFor k) :
    ∃ t, StepsTo k s t ∧ s.StaysHalted t ∧ (0 < k → t.rsp.valid = false) := by
  induction k with
  | zero => exact ⟨s, rfl, ⟨hc, rfl, rfl, rfl, rfl, rfl⟩, nofun⟩
  | succ k ih =>
    obtain ⟨t, ht, hkept, -⟩ := ih (hnr.mono (Nat.le_succ k))
    have hv := step_of_halted (stepsTo_inv hs ht) (hnr.at_end ht) hkept.ctl
    exact ⟨_, stepsTo_snoc ht hv, hkept.trans ⟨hkept.ctl, rfl, rfl, rfl, rfl, rfl⟩, fun _ => rfl⟩

/-- The counter cannot wrap while it and the ticks held and arriving stay below `2^W` together. -/
theorem timeBaseStep_not_wrapped {tick : Bool} (hw : s.cfg.uptimeW ≤ 32)
    (h : s.uptime.toNat + s.tickPending.toNat + tick.toNat < 2 ^ s.cfg.uptimeW) (masked : Bool) :
    (timeBaseStep s tick masked).wrapped = false := by
  rcases timeBaseStep_cases s tick masked with ⟨-, htb⟩ | ⟨-, hany, htb⟩ | ⟨-, -, -, htb⟩ <;> rw [htb]
  have := held_add_one _ _ hany
  have hu : s.uptime.toNat < 2 ^ s.cfg.uptimeW := by omega
  rcases tickApply_cases hw hu with ⟨htop, -⟩ | ⟨-, -, ha⟩
  · omega
  · rw [ha]

/-- HALTED keeps `deadline` along a run in which the counter cannot wrap. -/
theorem stepsTo_deadline_of_halted (hs : s.Inv) (hc : s.ctl = .halted) (hnr : s.NoResetFor k)
    (hfits : s.uptime.toNat + s.tickPending.toNat + s.ticksIn k < 2 ^ s.cfg.uptimeW) (h : StepsTo k s t) :
    t.deadline = s.deadline := by
  induction k generalizing s with
  | zero => rw [stepsTo_zero.mp h]
  | succ k ih =>
    obtain ⟨u, hu, ht⟩ := h
    have hticks := ticksIn_succ hu k
    have hrise := step_uptime_le hs.uptimeFits hnr.head hu
    have hnowrap := timeBaseStep_not_wrapped (tick := s.input.tick) (Config.uptimeW_le hs.legal) (by omega) false
    obtain ⟨huc, hdl⟩ : u.ctl = .halted ∧ u.deadline = s.deadline := by
      cases hu.symm.trans (step_of_halted hs hnr.head hc)
      exact ⟨hc, by rw [merge_deadline, hnowrap]; rfl⟩
    rw [ih (step_inv hs hu) huc (hnr.tail hu) (by rw [(step_env hu).1]; omega) ht, hdl]

/-- Settles O46: the run, its `deadline` short of a wrap, and the SignalDriver idle by INV-TX and INV-IDLE. -/
theorem haltedLastsUntilReset : Obligations.HaltedLastsUntilReset := by
  intro k s hs hc hnr
  obtain ⟨t, ht, hkept, hvalid⟩ := stepsTo_of_halted hs hc hnr
  have hti : t.Inv := stepsTo_inv hs ht
  have hsd : t.sd = SignalRegs.reset := hti.idle (hti.idle_of_ctl (by simp [hkept.ctl]))
  exact ⟨t, ht, hkept.ctl, by simp [State.output, hkept.ctl], hkept.fb,
    fun hfits => stepsTo_deadline_of_halted hs hc hnr hfits ht, hkept.faultCode, hkept.faultCmd, hsd,
    by simp [State.output, hsd], hkept.status, hkept.data, hvalid⟩

end Sys2Proof.Machine
end

section
/-! Events that fall in one step (60_exceptions.md R128). -/

namespace Sys2Proof.Machine

variable {s t : State}

/-- Outside the masked window, short of the top value, a tick that is held or arrives is applied, and the second of two is
held (40_timebase.md R72). -/
theorem step_applies_tick (hr : s.input.rst = false) (hm : s.masked = false)
    (hany : (s.tickPending || s.input.tick) = true) (hlt : s.uptime.toNat + 1 < 2 ^ s.cfg.uptimeW)
    (h : step s = .next t) :
    t.uptime.toNat = s.uptime.toNat + 1 ∧ t.tickPending = (s.tickPending && s.input.tick) := by
  rcases step_tick_cases (by omega) hr h with ⟨hm', -⟩ | ⟨-, -, htop, -⟩ | ⟨-, -, -, hup, hpend⟩ | ⟨-, hp, htick, -⟩
  · simp [hm] at hm'
  · omega
  · exact ⟨hup, hpend⟩
  · simp [hp, htick] at hany

/-- What a command accepted beside a tick does: it acts on the pre-state (60_exceptions.md R128 items 2 to 4). -/
theorem step_accepts_beside_tick {w : CmdWord} (hs : s.Inv) (ha : s.Accepts w)
    (hlt : s.uptime.toNat + 1 < 2 ^ s.cfg.uptimeW) (h : step s = .next t) :
    (decode s.cfg.uptimeW w = .ok .rdUptime → t.rsp.data = s.uptime) ∧
      (∀ ms, decode s.cfg.uptimeW w = .ok (.delay ms) →
        t.deadline.toNat = (s.uptime.toNat + ms.toNat) % 2 ^ s.cfg.uptimeW) ∧
      (decode s.cfg.uptimeW w = .ok .tx → t.ctl = .busyTx ∧ t.sd.dout = true) ∧
      ((∃ f, s.Raises w f) → t.ctl = .halted) := by
  refine ⟨fun hd => ?_, fun ms hd => ?_, fun hd => ?_, fun ⟨f, hf⟩ => ?_⟩
  · cases (step_of_accepts ha hd rfl).symm.trans h
    rfl
  · obtain ⟨u, hu, -, -, -, ⟨hdl, -⟩ | ⟨htop, -⟩⟩ := step_accepts_delay hs ha hd
    · cases hu.symm.trans h
      exact hdl
    · omega
  · obtain ⟨⟨hn, -⟩, -⟩ := (Config.legal_iff s.cfg).mp hs.legal
    cases (step_of_accepts ha hd (exec_tx_of_pos hn)).symm.trans h
    exact ⟨rfl, by rw [merge_sd, if_pos ha.idle]; rfl⟩
  · cases (step_of_raises ha hf).symm.trans h
    rfl

/-- The step that completes a masked TX holds its tick (60_exceptions.md R128 item 6). -/
theorem step_completes_masked_tx (hs : s.Inv) (hr : s.input.rst = false) (hmask : s.cfg.txMasksIrq = true)
    (hp : s.sd.phase = .gap) (hcnt : s.sd.cnt = 0) (htick : s.input.tick = true) (h : step s = .next t) :
    t.ctl = .ready ∧ t.sd.phase = .idle ∧ t.uptime = s.uptime ∧ t.tickPending = true := by
  have hm : s.masked = true := by simp [State.masked, hmask, hp]
  obtain ⟨t', ht', -, hdone⟩ := gapStepCompletesTheFrame s hs hr hp (by simp [State.stalled, hm])
  obtain rfl := Host.Outcome.next.inj (ht'.symm.trans h)
  obtain ⟨hheld, -⟩ := tickIsHeldOrAppliedOnce s t' hs hr h
  obtain ⟨hup, hpend⟩ := hheld hm
  obtain ⟨hidle, -, -, -, -, -, -, hready, -⟩ := hdone hcnt
  exact ⟨hready, hidle, hup, by simp [hpend, htick]⟩

/-- Settles O48: the reset step; the tick beside an accepted command; the wrap beside a DELAY, which O15 states; and the
tick held in the completing step, applied in the next, where the SignalDriver is idle. -/
theorem simultaneousEventsFollowTheirPriorities : Obligations.SimultaneousEventsFollowTheirPriorities := by
  refine ⟨fun s t h hr => ?_, fun s t w hs ha htick hlt h => ?_, fun s t w ms hs ha hd htick htop h => ?_,
    fun s t u hs hnr hmask hp hcnt htick hlt h hu => ?_⟩
  · exact Host.Outcome.next.inj (h.symm.trans (step_of_reset (step_cases h).1 hr))
  · obtain ⟨hup, hpend⟩ := step_applies_tick ha.noReset (State.masked_of_idle ha.idle) (by simp [htick]) hlt h
    obtain ⟨huptime, hdelay, htx, hfault⟩ := step_accepts_beside_tick hs ha hlt h
    exact ⟨hup, by simp [hpend, htick], huptime, hdelay, htx, fun hf => hfault (State.exists_raises_iff.mpr hf)⟩
  · obtain ⟨-, hwrap, -⟩ := delaySetsTheDeadline
    obtain ⟨t', ht', hcase⟩ := hwrap s w ms hs ha hd (.inr htick) htop
    obtain rfl := Host.Outcome.next.inj (ht'.symm.trans h)
    exact hcase
  · obtain ⟨hready, hidle, hup, hpend⟩ := step_completes_masked_tx hs hnr.head hmask hp hcnt htick h
    have hlt' : t.uptime.toNat + 1 < 2 ^ t.cfg.uptimeW := by rwa [hup, (step_env h).1]
    obtain ⟨hup', -⟩ :=
      step_applies_tick (hnr.tail h).head (State.masked_of_idle hidle) (by simp [hpend]) hlt' hu
    exact ⟨hpend, hup, hready, by rw [hup', hup]⟩

end Sys2Proof.Machine
end

section
/-! The reset step (70_reset_and_hazards.md R138, R139). -/

namespace Sys2Proof.Machine

variable {s : State}

/-- The next state of a reset step is named by the build and the environment alone. -/
theorem step_of_reset_eq_resetWith (hl : s.cfg.legal = true) (hr : s.input.rst = true) :
    step s = .next (State.resetWith s.cfg s.inputs.tail (s.cycle + 1)) :=
  step_of_reset hl hr

/-- Settles O28: the next state on a legal build is RESET_STATE, which names no register of the pre-state; an illegal
build is refused in both states. -/
theorem resetStepGivesTheResetState : Obligations.ResetStepGivesTheResetState := by
  refine ⟨fun s => step_of_reset_eq_resetWith, fun s s' hcfg hinputs hcycle hr hr' => ?_, fun s t hr h => ?_⟩
  · cases hl : s.cfg.legal with
    | true =>
      rw [step_of_reset_eq_resetWith hl hr, step_of_reset_eq_resetWith (hcfg ▸ hl) hr', hcfg, hinputs, hcycle]
    | false => rw [step_of_illegal hl, step_of_illegal (hcfg ▸ hl)]
  · cases (step_of_reset_eq_resetWith (step_cases h).1 hr).symm.trans h
    exact ⟨rfl, rfl, rfl, FrameBuffer.read_nil⟩

end Sys2Proof.Machine
end
